-- ==== Sys2Proof/Word.lean ====
section
/-! DEFINITION. The word types of the ENGINE at the default widths of rule R7 (CW = AW = LW = 32, NPINS = FW = 16),
and the eight codes of the 3-bit phase register `pc` (rule R23). -/

namespace Sys2Proof

/-- One byte of payload memory (R60). -/
abbrev Byte := BitVec 8

/-- A `CW`-bit count of cycles: CCOUNT, START, T0H, T1H, TTOT, W (R7, CW = 32). -/
abbrev CycleWord := BitVec 32

/-- An `AW`-bit payload address (R7, AW = 32). -/
abbrev Addr := BitVec 32

/-- An `LW`-bit payload length or byte index (R7, LW = 32). -/
abbrev Len := BitVec 32

/-- One bit per GPIO pin (R7, NPINS = 16). -/
abbrev PinMask := BitVec 16

/-- The CPU frequency in megahertz (R7, FW = 16). -/
abbrev Freq := BitVec 16

/-- The phase held by the 3-bit register `pc` (R23). Codes 5, 6 and 7 name no phase, and a step there behaves
as RESET (R93). -/
inductive Phase where
  | idle
  | pre
  | lowWait
  | highWait
  | post
  | code5
  | code6
  | code7
  deriving DecidableEq, Repr

end Sys2Proof
end

