-- ==== Sys2Proof/Config.lean ====
section
/-! DEFINITION. What an implementation fixes (the open parameters of rule R7) and the free values the spec leaves
open. A parameter is a field of `Params`, which the state carries unchanged, so that a claim over every state is a
claim over every parameter value. A free value is an opaque constant with no body, applied to a counter. -/

namespace Sys2Proof

/-- The three timing values ACCEPT loads (R26). -/
structure Timing where
  t0h  : CycleWord
  t1h  : CycleWord
  ttot : CycleWord
  deriving DecidableEq, Repr

/-- The parameters of R7 that the spec leaves open. -/
structure Params where
  /-- WDT_THRESH: unsuccessful polls in one wait before the engine resets the watchdog (R7, R147). -/
  wdtThresh : Nat
  /-- IRQ_PENDING_POLICY: requests that arrive while interrupts are disabled are kept (R35, D21). -/
  irqPendingKept : Bool
  /-- LATCH_GAP in cycles, a duty of the host that the engine does not enforce (R7, R219). -/
  latchGap : Nat
  /-- The functions `t0h_of`, `t1h_of`, `ttot_of` (R7, R104) as a table: a frequency listed here has the values
  beside it, and a frequency not listed has those of the default derivation. Every function on 16-bit
  frequencies is such a table. -/
  timing : List (Freq × Timing)
  deriving DecidableEq, Repr

/-- The range of WDT_THRESH (R7): `1 <= WDT_THRESH <= 2^CW - 2`. -/
abbrev Params.wf (p : Params) : Prop := 1 ≤ p.wdtThresh ∧ p.wdtThresh ≤ 2 ^ 32 - 2

/-- The parameters of the machine that `State.reset` describes. DESIGN CHOICE (log entry 3): the recommended
WDT_THRESH of R7, requests kept, no latch gap, the default derivation of R104. -/
def Params.recommended : Params :=
  { wdtThresh := 232, irqPendingKept := true, latchGap := 0, timing := [] }

/-- START_INIT, the draw of PRE (R102, D7), where the environment has scheduled none: free value (log entry 4). -/
opaque Config.startInit : Nat → CycleWord

/-- The platform's answer to an allocation of so many bytes (R165, R166) where none is scheduled: a region's first
address, or `none` for a failure. Free value (log entry 5). -/
opaque Config.allocate : Nat → Nat → Option Addr

/-- A 16-bit register left unspecified by RESET (R210). Free value (log entry 6). -/
opaque Config.freeMask : Nat → PinMask

/-- A 32-bit register left unspecified by RESET (R210), by draw and by register. Free value (log entry 6). -/
opaque Config.freeWord : Nat → Nat → BitVec 32

/-- An 8-bit register left unspecified by RESET (R210), by draw and by register. Free value (log entry 6). -/
opaque Config.freeByte : Nat → Nat → Byte

/-- A byte of a framebuffer whose allocation has failed or that was destroyed, by draw and by offset: the spec does
not state it (R166, N25, R163). Free value (log entry 27). -/
opaque Config.freeBufferByte : Nat → Nat → Byte

/-- GPIO_MASK while its strobe is 0 (R39). Free value (log entry 7). -/
opaque Config.idleGpioMask : Nat → PinMask

/-- GPIO_LEVEL while its strobe is 0 (R39). Free value (log entry 7). -/
opaque Config.idleGpioLevel : Nat → Bool

/-- MEM_ADDR while its strobe is 0 (R39). Free value (log entry 7). -/
opaque Config.idleMemAddr : Nat → Addr

/-- MEM_RDATA while no read is performed (R30). Free value (log entry 7). -/
opaque Config.idleMemRdata : Nat → Byte

/-- Whether the platform still holds a pending interrupt request after a step in which interrupts are not
disabled, by step and request (R35, R193). Free value (log entry 8). -/
opaque Config.irqHeld : Nat → Nat → Bool

end Sys2Proof
end

