-- ==== Sys2Proof/Syntax.lean ====
section
/-! DEFINITION. The operations of spec/opcode_table.json, one constructor a row, in the table's order and in its six
formats CMD, WIRE, UOP, PRIMITIVE, HOSTCALL and PSEUDO. -/

namespace Sys2Proof

/-- A byte sequence that a caller owns, as a region of payload memory (R60, R74). -/
structure ByteSeq where
  addr : Addr
  len  : Nat
  deriving DecidableEq, Repr

/-- One constructor per row of spec/opcode_table.json. -/
inductive Instr where
  /-- TRANSMIT, command word with OP = 1 (R86, R100, R105). -/
  | transmit (pinMask : PinMask) (base : Addr) (length : Len)
  /-- NOP, command word with OP = 0: no command presented (R87, R101). -/
  | nopCmd
  /-- SYM0, the symbol of a data bit 0 (R81). -/
  | sym0
  /-- SYM1, the symbol of a data bit 1 (R82). -/
  | sym1
  /-- RESET, decode key `1pppx` (R210). -/
  | reset
  /-- NOP, decode key `00000`: the idle step (R101). -/
  | nop
  /-- ACCEPT, decode key `00001` (R100). -/
  | accept
  /-- PRE, decode key `0001x` (R102). -/
  | pre
  /-- LOW_POLL, decode key `00100` (R121). -/
  | lowPoll
  /-- RISE, decode key `00101` (R122). -/
  | rise
  /-- HIGH_POLL, decode key `00110` (R123). -/
  | highPoll
  /-- FALL, decode key `00111` (R124). -/
  | fall
  /-- ADVANCE, the sequencing half of FALL (R126). -/
  | advance
  /-- POST, decode key `0100x` (R108). -/
  | post
  /-- `pc` code 5, decode key `0101x` (R93). -/
  | unreachablePc5
  /-- `pc` code 6, decode key `0110x` (R93). -/
  | unreachablePc6
  /-- `pc` code 7, decode key `0111x` (R93). -/
  | unreachablePc7
  /-- IrqLock (R140). -/
  | irqLock
  /-- IrqUnlock (R141). -/
  | irqUnlock
  /-- GpioWrite(mask, level) (R143). -/
  | gpioWrite (mask : PinMask) (level : Bool)
  /-- WdtReset (R146). -/
  | wdtReset
  /-- WaitTick (R147). -/
  | waitTick
  /-- CycleCount (R149). -/
  | cycleCount
  /-- MemRead(addr, 1) (R62). -/
  | memRead (addr : Addr)
  /-- The table's `initialize(bytes)` (R165). -/
  | fbInitialize (bytes : List Byte)
  /-- overwriteLed(index, r, g, b) (R167). -/
  | overwriteLed (index : Nat) (r g b : Byte)
  /-- overwriteRange(startIndex, bytes) (R168). -/
  | overwriteRange (startIndex : Nat) (bytes : List Byte)
  /-- mergeLed(index, r, g, b) (R169). -/
  | mergeLed (index : Nat) (r g b : Byte)
  /-- mergeRange(startIndex, bytes) (R170). -/
  | mergeRange (startIndex : Nat) (bytes : List Byte)
  /-- readLed(index) (R171). -/
  | readLed (index : Nat)
  /-- shiftRight(ledCount) (R172). -/
  | shiftRight (ledCount : Nat)
  /-- shiftLeft(ledCount) (R173). -/
  | shiftLeft (ledCount : Nat)
  /-- toWireOrderInPlace(bytes) (R176). -/
  | toWireOrderInPlace (bytes : ByteSeq)
  /-- asWireOrder(bytes) (R177). -/
  | asWireOrder (bytes : ByteSeq)
  /-- flush(pinMask) (R96, R111). -/
  | flush (pinMask : PinMask)
  /-- writeRgb(pinMask, bytes, n) (R96, R112). -/
  | writeRgb (pinMask : PinMask) (bytes : ByteSeq) (n : Len)
  /-- writeGrb(pinMask, bytes, n) (R96, R112). -/
  | writeGrb (pinMask : PinMask) (bytes : ByteSeq) (n : Len)
  deriving DecidableEq, Repr

/-- The six formats of spec/opcode_table.json (R80, R86, R89, R90, R96 and the primitives of R9). -/
inductive Format where
  | cmd
  | wire
  | uop
  | primitive
  | hostcall
  | pseudo
  deriving DecidableEq, Repr

/-- The format column of the table. -/
def Instr.format : Instr → Format
  | .transmit _ _ _ => .cmd
  | .nopCmd => .cmd
  | .sym0 => .wire
  | .sym1 => .wire
  | .reset => .uop
  | .nop => .uop
  | .accept => .uop
  | .pre => .uop
  | .lowPoll => .uop
  | .rise => .uop
  | .highPoll => .uop
  | .fall => .uop
  | .advance => .uop
  | .post => .uop
  | .unreachablePc5 => .uop
  | .unreachablePc6 => .uop
  | .unreachablePc7 => .uop
  | .irqLock => .primitive
  | .irqUnlock => .primitive
  | .gpioWrite _ _ => .primitive
  | .wdtReset => .primitive
  | .waitTick => .primitive
  | .cycleCount => .primitive
  | .memRead _ => .primitive
  | .fbInitialize _ => .hostcall
  | .overwriteLed _ _ _ _ => .hostcall
  | .overwriteRange _ _ => .hostcall
  | .mergeLed _ _ _ _ => .hostcall
  | .mergeRange _ _ => .hostcall
  | .readLed _ => .hostcall
  | .shiftRight _ => .hostcall
  | .shiftLeft _ => .hostcall
  | .toWireOrderInPlace _ => .hostcall
  | .asWireOrder _ => .hostcall
  | .flush _ => .pseudo
  | .writeRgb _ _ _ => .pseudo
  | .writeGrb _ _ _ => .pseudo

end Sys2Proof
end

