-- ==== Sys2Proof/WellFormed.lean ====
section
/-! DEFINITION. Which operations are well formed. The operand types already hold the widths of R86 and the byte and
natural-number domains of R164. What is left is that a caller's byte sequence lies inside the `AW`-bit address space
(R60, R92 (e)). -/

namespace Sys2Proof

/-- The sequence's bytes have addresses `addr .. addr + len - 1` below `2^AW`. -/
def ByteSeq.wf (b : ByteSeq) : Bool := decide (b.addr.toNat + b.len ≤ 2 ^ 32)

/-- The checks of an operation as syntax. -/
def Instr.wf : Instr → Bool
  | .toWireOrderInPlace bytes => bytes.wf
  | .asWireOrder bytes => bytes.wf
  | .writeRgb _ bytes _ => bytes.wf
  | .writeGrb _ bytes _ => bytes.wf
  | .transmit _ _ _ => true
  | .nopCmd => true
  | .sym0 => true
  | .sym1 => true
  | .reset => true
  | .nop => true
  | .accept => true
  | .pre => true
  | .lowPoll => true
  | .rise => true
  | .highPoll => true
  | .fall => true
  | .advance => true
  | .post => true
  | .unreachablePc5 => true
  | .unreachablePc6 => true
  | .unreachablePc7 => true
  | .irqLock => true
  | .irqUnlock => true
  | .gpioWrite _ _ => true
  | .wdtReset => true
  | .waitTick => true
  | .cycleCount => true
  | .memRead _ => true
  | .fbInitialize _ => true
  | .overwriteLed _ _ _ _ => true
  | .overwriteRange _ _ => true
  | .mergeLed _ _ _ _ => true
  | .mergeRange _ _ => true
  | .readLed _ => true
  | .shiftRight _ => true
  | .shiftLeft _ => true
  | .flush _ => true

end Sys2Proof
end

