-- ==== Sys2Proof/Decode.lean ====
section
/-! DEFINITION. The decoders of rules R80 (wire symbol), R86 (command word) and R89 (micro-operation key), total and
rejecting by name, and after them the encoder written from the same tables. -/

namespace Sys2Proof

/-- Why a word is no instruction of the table. -/
inductive DecodeReject where
  /-- No format of the table has that many bits. -/
  | noSuchFormat (nbits : Nat)
  /-- A bit above the format's width is 1. -/
  | bitsAboveWidth (nbits : Nat)
  deriving DecidableEq, Repr

/-- The 3-bit code of a phase (R23). -/
def Phase.code : Phase → BitVec 3
  | .idle => 0
  | .pre => 1
  | .lowWait => 2
  | .highWait => 3
  | .post => 4
  | .code5 => 5
  | .code6 => 6
  | .code7 => 7

/-- The phase with a 3-bit code (R23). -/
def Phase.ofCode (c : BitVec 3) : Phase :=
  if c = 0 then .idle else if c = 1 then .pre else if c = 2 then .lowWait else if c = 3 then .highWait
  else if c = 4 then .post else if c = 5 then .code5 else if c = 6 then .code6 else .code7

/-- The table of R89: RST, the phase and the phase's condition name the micro-operation of the step. -/
def decodeMicroOp (rst : Bool) (pc : Phase) (cond : Bool) : Instr :=
  if rst then .reset
  else
    match pc with
    | .idle => if cond then .accept else .nop
    | .pre => .pre
    | .lowWait => if cond then .rise else .lowPoll
    | .highWait => if cond then .fall else .highPoll
    | .post => .post
    | .code5 => .unreachablePc5
    | .code6 => .unreachablePc6
    | .code7 => .unreachablePc7

/-- The decode key `RST ++ pc[2:0] ++ COND` of R89. -/
def microOpKey (rst : Bool) (pc : Phase) (cond : Bool) : BitVec 5 :=
  BitVec.ofBool rst ++ pc.code ++ BitVec.ofBool cond

/-- The micro-operation of a 5-bit decode key (R89). ADVANCE has FALL's key and is performed by it (R126). -/
def decodeKey (k : BitVec 5) : Instr :=
  decodeMicroOp (k.getLsbD 4) (Phase.ofCode (k.extractLsb' 1 3)) (k.getLsbD 0)

/-- The command word `OP ++ PINMASK ++ BASE ++ LENGTH` (R86). -/
def commandWord (op : Bool) (pinMask : PinMask) (base : Addr) (length : Len) : BitVec 81 :=
  BitVec.ofBool op ++ pinMask ++ base ++ length

/-- The command of an 81-bit command word (R86, R87). -/
def decodeCommand (w : BitVec 81) : Instr :=
  if w.getLsbD 80 then .transmit (w.extractLsb' 64 16) (w.extractLsb' 32 32) (w.extractLsb' 0 32) else .nopCmd

/-- The symbol of one data bit (R80, R81, R82). -/
def decodeSymbol (bit : Bool) : Instr := if bit then .sym1 else .sym0

/-- The instruction in a word of `nbits` bits: 1 bit is a wire symbol, 5 bits (8 in whole bytes) a micro-operation
key, 81 bits (88 in whole bytes) a command word. -/
def decodeWord (nbits w : Nat) : Except DecodeReject Instr :=
  if nbits = 1 then
    if w < 2 then .ok (decodeSymbol (w.testBit 0)) else .error (.bitsAboveWidth nbits)
  else if nbits = 5 ∨ nbits = 8 then
    if w < 2 ^ 5 then .ok (decodeKey (BitVec.ofNat 5 w)) else .error (.bitsAboveWidth nbits)
  else if nbits = 81 ∨ nbits = 88 then
    if w < 2 ^ 81 then .ok (decodeCommand (BitVec.ofNat 81 w)) else .error (.bitsAboveWidth nbits)
  else .error (.noSuchFormat nbits)

/-- The number a list of bytes stands for, least significant byte first. DESIGN CHOICE (log entry 9): the command
word is presented on ports, and no rule gives its bytes an order. -/
def littleEndian : List Byte → Nat
  | [] => 0
  | b :: bs => b.toNat + 256 * littleEndian bs

/-- The decoder on any list of bytes. -/
def decodeBytes (bs : List Byte) : Except DecodeReject Instr := decodeWord (8 * bs.length) (littleEndian bs)

/-- The instruction that a table row's bits stand for. -/
def decodeTableWord (nbits w : Nat) : Option Instr :=
  match decodeWord nbits w with
  | .ok i => some i
  | .error _ => none

/-- The bits of an instruction and how many they are, from the encoding column of the table, a bit that is not
looked at being 0. `none` where no source gives a bit pattern (R90, the primitives) and for ADVANCE, which is "not
selected on its own" (R126). -/
def encode : Instr → Option (Nat × Nat)
  | .transmit pinMask base length => some (81, (commandWord true pinMask base length).toNat)
  | .nopCmd => some (81, (commandWord false 0 0 0).toNat)
  | .sym0 => some (1, 0)
  | .sym1 => some (1, 1)
  | .reset => some (5, (microOpKey true .idle false).toNat)
  | .nop => some (5, (microOpKey false .idle false).toNat)
  | .accept => some (5, (microOpKey false .idle true).toNat)
  | .pre => some (5, (microOpKey false .pre false).toNat)
  | .lowPoll => some (5, (microOpKey false .lowWait false).toNat)
  | .rise => some (5, (microOpKey false .lowWait true).toNat)
  | .highPoll => some (5, (microOpKey false .highWait false).toNat)
  | .fall => some (5, (microOpKey false .highWait true).toNat)
  | .post => some (5, (microOpKey false .post false).toNat)
  | .unreachablePc5 => some (5, (microOpKey false .code5 false).toNat)
  | .unreachablePc6 => some (5, (microOpKey false .code6 false).toNat)
  | .unreachablePc7 => some (5, (microOpKey false .code7 false).toNat)
  | .advance => none
  | .irqLock => none
  | .irqUnlock => none
  | .gpioWrite _ _ => none
  | .wdtReset => none
  | .waitTick => none
  | .cycleCount => none
  | .memRead _ => none
  | .fbInitialize _ => none
  | .overwriteLed _ _ _ _ => none
  | .overwriteRange _ _ => none
  | .mergeLed _ _ _ _ => none
  | .mergeRange _ _ => none
  | .readLed _ => none
  | .shiftRight _ => none
  | .shiftLeft _ => none
  | .toWireOrderInPlace _ => none
  | .asWireOrder _ => none
  | .flush _ => none
  | .writeRgb _ _ _ => none
  | .writeGrb _ _ _ => none

end Sys2Proof
end

