-- ==== Sys2Proof/Machine/State.lean ====
section
/-! DEFINITION. The state: the engine's registers and flags (R22, R23, R25), its ports (R30, R31), the collaborators'
state (R21, R32 to R35, R60), the host's framebuffer and remaining calls (R160, R178), the parameters and draws (R7,
R102) and the event history (R11), all plain data. -/

namespace Sys2Proof.Machine

/-- The eleven working registers (R22). -/
structure Regs where
  /-- PINMASK, the pin operand. -/
  pinMask : PinMask
  /-- BASE, the address of byte 0 of the payload. -/
  base : Addr
  /-- LENGTH, the number of payload bytes. -/
  length : Len
  /-- T0H, cycles of high time for a 0 bit. -/
  t0h : CycleWord
  /-- T1H, cycles of high time for a 1 bit. -/
  t1h : CycleWord
  /-- TTOT, cycles of a bit period. -/
  ttot : CycleWord
  /-- BYTEIDX, the index of the byte being transmitted. -/
  byteIdx : Len
  /-- CUR, the byte being transmitted. -/
  cur : Byte
  /-- BITMASK, the one-hot selector of the bit being transmitted. -/
  bitMask : Byte
  /-- START the register, a CCOUNT sample (R28). The input port of that name is `Inputs.start`. -/
  startTime : CycleWord
  /-- W, the unsuccessful polls of the current wait since the last in-wait watchdog reset (R29). -/
  w : CycleWord
  deriving DecidableEq, Repr

/-- The input ports of one step (R30), and the interrupt requests that arrive in it (R35). CLK is the step itself,
CCOUNT is `State.ccount`, and MEM_RDATA is in `Outputs.mem`. -/
structure Inputs where
  rst       : Bool
  start     : Bool
  pinMaskIn : PinMask
  baseIn    : Addr
  lengthIn  : Len
  cpuFreq   : Freq
  irqReq    : List Nat
  deriving DecidableEq, Repr

/-- GPIO_MASK and GPIO_LEVEL of a step that performs GpioWrite (R31). -/
structure GpioDrive where
  mask  : PinMask
  level : Bool
  deriving DecidableEq, Repr

/-- MEM_ADDR and MEM_RDATA of a step that performs MemRead (R30, R31). -/
structure MemAccess where
  addr  : Addr
  rdata : Byte
  deriving DecidableEq, Repr

/-- The ports of the step just made (R31). GPIO_WR is 1 exactly when `gpio` is there, MEM_RD exactly when `mem` is,
and the operand ports are unspecified while their strobe is 0 (R39). BUSY and IRQ_DISABLE are read from the state. -/
structure Outputs where
  wdtReset : Bool
  gpio     : Option GpioDrive
  mem      : Option MemAccess
  deriving DecidableEq, Repr

/-- Every strobe 0. -/
def Outputs.quiet : Outputs := { wdtReset := false, gpio := none, mem := none }

/-- The five event kinds (R11). -/
inductive EventKind where
  | irqLock
  | irqUnlock
  | wdtReset
  | memRead (addr : Addr) (value : Byte)
  | pinWrite (mask : PinMask) (level : Bool)
  deriving DecidableEq, Repr

/-- One event of the history, tagged with its step number (R11). -/
structure Event where
  step : Nat
  kind : EventKind
  deriving DecidableEq, Repr

/-- Payload memory (R60) as address and byte pairs in one canonical form, see `Memory.wf`. -/
abbrev Memory := List Host.Cell

/-- The host driver's framebuffer (R160 to R163): its region `base .. base + len - 1`, whose allocated capacity is
`len`, and whether an allocation failure has ended the driver instance (R166). -/
structure Framebuffer where
  base : Addr
  len  : Nat
  dead : Bool
  deriving DecidableEq, Repr

/-- No buffer: `len = 0`, as before the first `initialize` (R163). Its address is the model's choice (log entry 2). -/
def Framebuffer.absent : Framebuffer := { base := 0, len := 0, dead := false }

/-- What the last host call or byte read handed back (R60, R166, R171, R178). -/
inductive HostResult where
  | nothing
  | byte (value : Byte)
  | led (r g b : Byte)
  | empty
  | allocFailed
  deriving DecidableEq, Repr

/-- The host's moves (R6, R178): an operation of the table, a byte write or a byte read of payload memory (R9, R60),
the two GPIO calls it makes itself (R144, R214), or the teardown of its driver instance (R163). -/
inductive HostMove where
  | run (i : Instr)
  | store (addr : Addr) (value : Byte)
  | load (addr : Addr)
  | setPinMode (mask : PinMask)
  | writePin (mask : PinMask) (level : Bool)
  | teardown
  deriving DecidableEq, Repr

/-- The environment's draws: values scheduled for the coming draws, and how many draws were made. A draw that is
not scheduled is a free value of Config applied to the count (log entries 4 to 6). -/
structure Draws where
  startInits : List CycleWord
  allocs     : List (Option Addr)
  count      : Nat
  deriving DecidableEq, Repr

/-- Why the machine stops with a fault. None: "the step function never returns a fault" (R192). -/
inductive Fault where
  deriving DecidableEq, Repr

/-- Why a step or an operation is refused. Every refusal is safe: the model declines a move that the spec denies. -/
inductive Refusal where
  /-- An operation with no meaning yet, raised by `exec`'s arm alone. Safe. -/
  | notModelled (mnemonic : String)
  /-- A host software call while BUSY = 1, raised by the HOSTCALL and PSEUDO meanings: the host has no move then
  (R106, R192). Safe. -/
  | hostBlocked
  /-- A framebuffer call or a flush after an allocation failure, raised by their meanings: "every later framebuffer
  operation and every flush is refused" (R166). Safe. -/
  | driverDead
  /-- A queued host move that names a micro-operation, a symbol or a primitive, raised by `step`: the host can issue
  none of them (R22, the head of spec file 42). Safe. -/
  | notHostOperation
  deriving DecidableEq, Repr

/-- The machine: engine, collaborators and host. -/
structure State where
  /-- The eleven working registers (R22). -/
  regs : Regs
  /-- `pc`, the phase of the next step (R23). -/
  pc : Phase
  /-- The flag and output port IRQ_DISABLE (R25). -/
  irqDisable : Bool
  /-- The input ports as the next step samples them (R30). -/
  inp : Inputs
  /-- The input ports of the steps after it, first one first. -/
  upcoming : List Inputs
  /-- The output ports of the step just made (R31). -/
  out : Outputs
  /-- PIN, the level of each GPIO pin, 1 = high (R32). -/
  pin : PinMask
  /-- The pins on which the host has performed `setMode(pin, outputFloat)` (R144, R214). -/
  pinOutput : PinMask
  /-- CCOUNT, the free-running cycle counter (R33). -/
  ccount : CycleWord
  /-- The sample the last CycleCount() returned (R149). The model's own field. -/
  sample : CycleWord
  /-- The number of the next step (R10). -/
  stepNo : Nat
  /-- The watchdog's hidden countdown (R34), as the cycles since it was last reset. -/
  wdtElapsed : Nat
  /-- The pending-interrupt set (R35), without repeats. -/
  irqPending : List Nat
  /-- Payload memory (R60). -/
  mem : Memory
  /-- The host driver's framebuffer (R160). -/
  fb : Framebuffer
  /-- What the last host call or byte read handed back (R60, R178). -/
  ret : HostResult
  /-- The host's moves still to come, first one first (R6). -/
  hostQueue : List HostMove
  /-- The environment's draws (R9). -/
  draws : Draws
  /-- The parameters of R7, fixed for the machine. -/
  params : Params
  /-- The event history H, oldest event first (R11). No rule reads it. -/
  history : List Event
  deriving DecidableEq, Repr

/-- Every working register zero. -/
def Regs.zero : Regs :=
  { pinMask := 0, base := 0, length := 0, t0h := 0, t1h := 0, ttot := 0, byteIdx := 0, cur := 0, bitMask := 0,
    startTime := 0, w := 0 }

/-- The input ports with RST = 0 and START = 0. -/
def Inputs.quiet (cpuFreq : Freq) : Inputs :=
  { rst := false, start := false, pinMaskIn := 0, baseIn := 0, lengthIn := 0, cpuFreq := cpuFreq, irqReq := [] }

/-- The machine right after reset (R39, R211): the phase IDLE, IRQ_DISABLE 0, the strobes 0, no framebuffer (R163)
and an empty history. What R39 leaves unspecified holds the value that log entries 1 and 2 name. -/
def State.reset : State :=
  { regs := Regs.zero
    pc := .idle
    irqDisable := false
    inp := Inputs.quiet 80
    upcoming := []
    out := Outputs.quiet
    pin := 0
    pinOutput := 0
    ccount := 0
    sample := 0
    stepNo := 0
    wdtElapsed := 0
    irqPending := []
    mem := []
    fb := Framebuffer.absent
    ret := .nothing
    hostQueue := []
    draws := { startInits := [], allocs := [], count := 0 }
    params := Params.recommended
    history := [] }

end Sys2Proof.Machine
end

