-- ==== Sys2Proof/Machine/Flags.lean ====
section
/-! DEFINITION. The flags (R25) and the output ports as the outside reads them (R31). -/

namespace Sys2Proof.Machine

/-- BUSY = (pc ≠ IDLE) (R25). -/
def busy (s : State) : Bool := decide (s.pc ≠ .idle)

/-- Set IRQ_DISABLE (R25). -/
def setIrqDisable (v : Bool) (s : State) : State := { s with irqDisable := v }

/-- The port WDT_RESET (R31). -/
def wdtResetPort (s : State) : Bool := s.out.wdtReset

/-- The strobe GPIO_WR (R31). -/
def gpioWrPort (s : State) : Bool := s.out.gpio.isSome

/-- GPIO_MASK (R31), unspecified while GPIO_WR is 0 (R39). -/
def gpioMaskPort (s : State) : PinMask :=
  match s.out.gpio with
  | some d => d.mask
  | none => Config.idleGpioMask s.stepNo

/-- GPIO_LEVEL (R31), unspecified while GPIO_WR is 0 (R39). -/
def gpioLevelPort (s : State) : Bool :=
  match s.out.gpio with
  | some d => d.level
  | none => Config.idleGpioLevel s.stepNo

/-- The strobe MEM_RD (R31). -/
def memRdPort (s : State) : Bool := s.out.mem.isSome

/-- MEM_ADDR (R31), unspecified while MEM_RD is 0 (R39). -/
def memAddrPort (s : State) : Addr :=
  match s.out.mem with
  | some a => a.addr
  | none => Config.idleMemAddr s.stepNo

/-- MEM_RDATA (R30), valid only in a step with MEM_RD = 1. -/
def memRdataPort (s : State) : Byte :=
  match s.out.mem with
  | some a => a.rdata
  | none => Config.idleMemRdata s.stepNo

end Sys2Proof.Machine
end

