-- ==== Sys2Proof/Machine/Operands.lean ====
section
/-! DEFINITION. How each operand value is formed (R88): the timing values from CPU_FREQ (R104), elapsed time (R8,
R133), the selected bit and its high time (R81, R82), the payload's addresses (R61), the phase's condition (R89),
framebuffer offsets (R161), and the list functions of the host operations (R165 to R177). -/

namespace Sys2Proof.Machine

/-- `t0h_of(f) = (350 * f) div 1000`, the default of R104. -/
def t0hOf (f : Nat) : Nat := 350 * f / 1000

/-- `t1h_of(f) = (700 * f) div 1000`, the default of R104. -/
def t1hOf (f : Nat) : Nat := 700 * f / 1000

/-- `ttot_of(f) = (1250 * f + 999) div 1000`, the default of R104. -/
def ttotOf (f : Nat) : Nat := (1250 * f + 999) / 1000

/-- The default derivation of R104, reduced to `CW` bits (R100). -/
def defaultTiming (f : Freq) : Timing :=
  { t0h := BitVec.ofNat 32 (t0hOf f.toNat)
    t1h := BitVec.ofNat 32 (t1hOf f.toNat)
    ttot := BitVec.ofNat 32 (ttotOf f.toNat) }

/-- The value a table of timings gives a frequency, the default where it lists none. -/
def lookupTiming : List (Freq × Timing) → Freq → Timing
  | [], f => defaultTiming f
  | (g, t) :: rest, f => if f = g then t else lookupTiming rest f

/-- `t0h_of`, `t1h_of`, `ttot_of` of the machine's parameters at the CPU_FREQ of this step (R104, R150). -/
def derivedTiming (s : State) : Timing := lookupTiming s.params.timing s.inp.cpuFreq

/-- `e = (in.CCOUNT - x[START]) mod 2^CW` (R8, R89). -/
def elapsed (s : State) : CycleWord := s.ccount - s.regs.startTime

/-- The data bit of the symbol: `(x[CUR] & x[BITMASK]) != 0` (R88 (c)). -/
def dataBit (s : State) : Bool := decide (s.regs.cur &&& s.regs.bitMask ≠ 0)

/-- The high time of a data bit: `x[T1H]` for a 1, `x[T0H]` for a 0 (R81, R82). -/
def highTimeOf (bit : Bool) (s : State) : CycleWord := if bit then s.regs.t1h else s.regs.t0h

/-- `t`, the high time of the selected bit (R89). -/
def highTime (s : State) : CycleWord := highTimeOf (dataBit s) s

/-- `e >= x[TTOT]`, the end of the low wait (R89). -/
def lowWaitOver (s : State) : Bool := decide (s.regs.ttot ≤ elapsed s)

/-- `e >= t` for the high time `t` (R89). -/
def highWaitOver (t : CycleWord) (s : State) : Bool := decide (t ≤ elapsed s)

/-- The condition column of R89. In a phase with no condition the bit is not looked at. -/
def phaseCondition (s : State) : Bool :=
  match s.pc with
  | .idle => s.inp.start
  | .lowWait => lowWaitOver s
  | .highWait => highWaitOver (highTime s) s
  | .pre => false
  | .post => false
  | .code5 => false
  | .code6 => false
  | .code7 => false

/-- The address of the payload byte after the one being transmitted, modulo `2^AW` (R61, R126). -/
def nextByteAddr (s : State) : Addr := s.regs.base + s.regs.byteIdx + 1

/-- The byte being transmitted is the last: `x[BYTEIDX] + 1 = x[LENGTH]`, an equality of naturals (R126). -/
def onLastByte (s : State) : Bool := decide (s.regs.byteIdx.toNat + 1 = s.regs.length.toNat)

/-- LED `index` lies inside the framebuffer: not `index*3 + 3 > len` (R167). -/
def ledInBounds (index : Nat) (s : State) : Bool := decide (index * 3 + 3 ≤ s.fb.len)

/-- The address of `buf[off]` (R161). -/
def fbAddr (off : Nat) (s : State) : Addr := s.fb.base + BitVec.ofNat 32 off

/-- The bytes of `bytes` that fit the framebuffer from offset `startIndex*3` on, "only the fitting prefix" (R168).
Empty where the offset is at or past `len`. -/
def fittingPrefix (startIndex : Nat) (bytes : List Byte) (s : State) : List Byte :=
  bytes.take (s.fb.len - startIndex * 3)

/-- Bytes OR-ed position by position (R170). -/
def orBytes (old new : List Byte) : List Byte := List.zipWith (fun a b => a ||| b) old new

/-- `buf[j] <- old[j - s] if j >= s else 0` (R172). -/
def shiftRightBytes (sh : Nat) (old : List Byte) : List Byte :=
  (List.range old.length).map (fun j => if sh ≤ j then old.getD (j - sh) 0 else 0)

/-- `buf[j] <- old[j + s] if j + s < len else 0` (R173). -/
def shiftLeftBytes (sh : Nat) (old : List Byte) : List Byte :=
  (List.range old.length).map (fun j => if j + sh < old.length then old.getD (j + sh) 0 else 0)

/-- In each complete triple swap the first two bytes, and leave a trailing partial triple (R176). -/
def swapTriples : List Byte → List Byte
  | a :: b :: c :: rest => b :: a :: c :: swapTriples rest
  | [a, b] => [a, b]
  | [a] => [a]
  | [] => []

/-- `new_len = 3 * (m div 3)` (R165). -/
def initializedLen (bytes : List Byte) : Nat := 3 * (bytes.length / 3)

end Sys2Proof.Machine
end

