-- ==== Sys2Proof/Machine/Ops.lean ====
section
/-! DEFINITION. The named operations over memory, events, draws, ports and the collaborators. The engine takes no
exception and returns from none (R190, R195, R196): the one event that diverts the sequencer is RST, and what it does
is the shared operation `engineReset` here (R210). -/

namespace Sys2Proof.Machine

/-! ### Payload memory (R60) -/

/-- What an address that nothing has written reads as. DESIGN CHOICE (log entry 10): zero. -/
def Memory.unwritten : Byte := 0

/-- The byte at an address (R62). -/
def Memory.read : Memory → Nat → Byte
  | [], _ => Memory.unwritten
  | (b, v) :: rest, a => if a = b then v else Memory.read rest a

/-- Write one byte, keeping the canonical form: a byte that equals `Memory.unwritten` is not listed. -/
def Memory.write : Memory → Nat → Byte → Memory
  | [], a, v => if v = Memory.unwritten then [] else [(a, v)]
  | (b, w) :: rest, a, v =>
    if a < b then (if v = Memory.unwritten then (b, w) :: rest else (a, v) :: (b, w) :: rest)
    else if a = b then (if v = Memory.unwritten then rest else (a, v) :: rest)
    else (b, w) :: Memory.write rest a v

/-- Every listed address is at least `lo`, addresses rise strictly and stay below `2^AW`, and no listed byte equals
`Memory.unwritten`. -/
def Memory.wfFrom : Nat → Memory → Bool
  | _, [] => true
  | lo, (a, v) :: rest =>
    decide (lo ≤ a) && decide (a < 2 ^ 32) && decide (v ≠ Memory.unwritten) && Memory.wfFrom (a + 1) rest

/-- The canonical form of payload memory. -/
def Memory.wf (m : Memory) : Bool := Memory.wfFrom 0 m

/-- `n` bytes from an address on, addresses modulo `2^AW` (R61). -/
def Memory.readBytes (m : Memory) : Addr → Nat → List Byte
  | _, 0 => []
  | a, n + 1 => m.read a.toNat :: Memory.readBytes m (a + 1) n

/-- Write bytes from an address on, addresses modulo `2^AW`. -/
def Memory.writeBytes (m : Memory) : Addr → List Byte → Memory
  | _, [] => m
  | a, b :: bs => Memory.writeBytes (m.write a.toNat b) (a + 1) bs

/-! ### Events and draws -/

/-- Append an event tagged with the step number (R11). -/
def record (k : EventKind) (s : State) : State := { s with history := s.history ++ [{ step := s.stepNo, kind := k }] }

/-- START_INIT of this draw: the scheduled value, else a free value (R102, D7). -/
def startInitDraw (s : State) : CycleWord :=
  match s.draws.startInits with
  | v :: _ => v
  | [] => Config.startInit s.draws.count

/-- The state after the draw of START_INIT. -/
def advanceStartDraw (s : State) : State :=
  { s with draws := { s.draws with startInits := s.draws.startInits.tail, count := s.draws.count + 1 } }

/-- Where the platform places a region of `n` bytes, or `none` for a failure (R165, R166). An answer that is no
region of the address space is a failure: a region of exactly `n` bytes lies inside it. DEDUCED (log entry 5). -/
def allocDraw (n : Nat) (s : State) : Option Addr :=
  match (match s.draws.allocs with
    | v :: _ => v
    | [] => Config.allocate s.draws.count n) with
  | some a => if a.toNat + n ≤ 2 ^ 32 then some a else none
  | none => none

/-- The state after an allocation has been answered. -/
def advanceAllocDraw (s : State) : State :=
  { s with draws := { s.draws with allocs := s.draws.allocs.tail, count := s.draws.count + 1 } }

/-! ### The primitives (R140 to R149, R62) -/

/-- IrqLock() (R140). -/
def irqLock (s : State) : State := record .irqLock (setIrqDisable true s)

/-- IrqUnlock() (R141). -/
def irqUnlock (s : State) : State := record .irqUnlock (setIrqDisable false s)

/-- The pin levels after driving the pins of a mask: `if mask[p] = 1 then PIN[p] <- level` (R143). -/
def drivePins (pin mask : PinMask) (level : Bool) : PinMask := if level then pin ||| mask else pin &&& ~~~mask

/-- GpioWrite(mask, level) (R143): the pins, the ports GPIO_WR, GPIO_MASK and GPIO_LEVEL, and the event. -/
def gpioWrite (mask : PinMask) (level : Bool) (s : State) : State :=
  record (.pinWrite mask level)
    { s with pin := drivePins s.pin mask level, out := { s.out with gpio := some { mask := mask, level := level } } }

/-- WdtReset() (R146): the strobe WDT_RESET, the event, and the hidden countdown restarted (R34). -/
def wdtReset (s : State) : State :=
  record .wdtReset { s with out := { s.out with wdtReset := true }, wdtElapsed := 0 }

/-- WaitTick() (R147). -/
def waitTick (s : State) : State :=
  if s.regs.w.toNat + 1 > s.params.wdtThresh then
    { wdtReset s with regs := { s.regs with w := 0 } }
  else
    { s with regs := { s.regs with w := s.regs.w + 1 } }

/-- CycleCount() (R149): the sample of this step. -/
def cycleCount (s : State) : State := { s with sample := s.ccount }

/-- The byte MemRead(addr, 1) returns (R62). -/
def memValue (addr : Addr) (s : State) : Byte := s.mem.read addr.toNat

/-- MemRead(addr, 1) (R62): the ports MEM_RD, MEM_ADDR and MEM_RDATA, and the event. -/
def memRead (addr : Addr) (s : State) : State :=
  record (.memRead addr (memValue addr s))
    { s with out := { s.out with mem := some { addr := addr, rdata := memValue addr s } } }

/-! ### One CLK cycle (R10, R20) -/

/-- Add requests to a set of pending requests (R35). -/
def addRequests (pending : List Nat) : List Nat → List Nat
  | [] => pending
  | r :: rest => addRequests (if r ∈ pending then pending else pending ++ [r]) rest

/-- The pending-interrupt set after a step. While interrupts are disabled none is taken, and requests that arrive
are kept or dropped (R35, D21). Otherwise the platform delivers or drops what it likes (R141). -/
def pendingAfter (masked : Bool) (s : State) : List Nat :=
  if masked then (if s.params.irqPendingKept then addRequests s.irqPending s.inp.irqReq else s.irqPending)
  else (addRequests s.irqPending s.inp.irqReq).filter (Config.irqHeld s.stepNo)

/-- The input ports of the next step: the scheduled ones, else RST, START and the interrupt requests fall back to
nothing and the other ports hold. DESIGN CHOICE (log entry 11). -/
def nextInputs (s : State) : Inputs :=
  match s.upcoming with
  | i :: _ => i
  | [] => { s.inp with rst := false, start := false, irqReq := [] }

/-- The start of a step: every strobe is 0 until a primitive raises it (R31). -/
def beginCycle (s : State) : State := { s with out := Outputs.quiet }

/-- The end of a step: CCOUNT advances by one (R33), the step number too (R10), the ports change, and the platform's
hidden state moves on. `masked` says whether interrupts were disabled during the step. -/
def endCycle (masked : Bool) (s : State) : State :=
  { s with
    ccount := s.ccount + 1
    stepNo := s.stepNo + 1
    inp := nextInputs s
    upcoming := s.upcoming.tail
    irqPending := pendingAfter masked s
    wdtElapsed := if s.out.wdtReset then 0 else s.wdtElapsed + 1 }

/-- One step of the engine in which it performs `act` (R20). -/
def cycle (act : State → State) (s : State) : State := endCycle s.irqDisable (act (beginCycle s))

/-! ### Reset (R210) -/

/-- The working registers after RESET: unspecified, so free values (R39, R210). -/
def unspecifiedRegs (n : Nat) : Regs :=
  { pinMask := Config.freeMask n
    base := Config.freeWord n 0
    length := Config.freeWord n 1
    t0h := Config.freeWord n 2
    t1h := Config.freeWord n 3
    ttot := Config.freeWord n 4
    byteIdx := Config.freeWord n 5
    cur := Config.freeByte n 0
    bitMask := Config.freeByte n 1
    startTime := Config.freeWord n 6
    w := Config.freeWord n 7 }

/-- What RST does (R210): `pc <- IDLE`, `x[IRQ_DISABLE] <- 0`, the working registers become unspecified. No event,
no pin, no watchdog reset. Whether the platform's pin modes survive RST the spec does not say, and the model keeps
`pinOutput`. DESIGN CHOICE (log entry 28). -/
def engineReset (s : State) : State :=
  { setIrqDisable false s with
    pc := .idle
    regs := unspecifiedRegs s.draws.count
    draws := { s.draws with count := s.draws.count + 1 } }

/-! ### The host's side (R178) -/

/-- A command word on the command ports (R86). -/
def driveCommand (op : Bool) (pinMask : PinMask) (base : Addr) (length : Len) (s : State) : State :=
  { s with inp := { s.inp with start := op, pinMaskIn := pinMask, baseIn := base, lengthIn := length } }

/-- START = 0 on the command ports, the other fields as they are (R87: ignored). -/
def driveNoCommand (s : State) : State := { s with inp := { s.inp with start := false } }

/-- Hand a result back to the host. -/
def giveBack (r : HostResult) (s : State) : State := { s with ret := r }

/-- MemWrite by the host, one byte (R9). -/
def storeByte (addr : Addr) (v : Byte) (s : State) : State := { s with mem := s.mem.write addr.toNat v }

/-- MemRead by the host, one byte (R9, R60): the value is handed back. No event and no port, since those are the
engine's (R62). -/
def loadByte (addr : Addr) (s : State) : State := giveBack (.byte (memValue addr s)) s

/-- Write bytes of payload memory from an address on. -/
def storeBytes (addr : Addr) (bytes : List Byte) (s : State) : State := { s with mem := s.mem.writeBytes addr bytes }

/-- `buf[0 .. len-1]` (R161). -/
def fbBytes (s : State) : List Byte := s.mem.readBytes s.fb.base s.fb.len

/-- Write framebuffer bytes from an offset on. -/
def storeFb (off : Nat) (bytes : List Byte) (s : State) : State := storeBytes (fbAddr off s) bytes s

/-- Bytes of a lost framebuffer, free values by draw and offset. -/
def unstatedBytes (n len : Nat) : List Byte := (List.range len).map (Config.freeBufferByte n)

/-- The framebuffer's bytes become free values: the spec does not state what a buffer holds after an allocation
failure (R166) or after it was destroyed (R163), and the old bytes must not be assumed to survive (N25). DESIGN CHOICE
(log entry 27): no byte outside the region changes, and the record of the region stays. -/
def loseBuffer (s : State) : State :=
  { storeBytes s.fb.base (unstatedBytes s.draws.count s.fb.len) s with
    draws := { s.draws with count := s.draws.count + 1 } }

/-- The host's driver instance is torn down and its framebuffer destroyed (R160, R163). What follows is a new
instance before its first `initialize`, also after an allocation failure, which ended the old one. DESIGN CHOICE (log
entry 27). -/
def teardown (s : State) : State := giveBack .nothing { loseBuffer s with fb := Framebuffer.absent }

/-- `setMode(pin, outputFloat)` on the pins of a mask (R144). -/
def setPinMode (mask : PinMask) (s : State) : State := { s with pinOutput := s.pinOutput ||| mask }

/-- The host's own `write(pin, level)` (R144, R214): no event, since no rule of the engine performs it. -/
def writePin (mask : PinMask) (level : Bool) (s : State) : State := { s with pin := drivePins s.pin mask level }

/-- A host call runs only while the engine is idle (R106, R192). -/
def whenIdle (act : State → Host.Outcome State Fault Refusal) (s : State) : Host.Outcome State Fault Refusal :=
  if busy s then .refused .hostBlocked else act s

/-- A framebuffer call runs only while the engine is idle and the driver instance alive (R106, R166). -/
def whenAlive (act : State → State) (s : State) : Host.Outcome State Fault Refusal :=
  if busy s then .refused .hostBlocked else if s.fb.dead then .refused .driverDead else .next (act s)

end Sys2Proof.Machine
end

