-- ==== Sys2Proof/Machine/Sequencer.lean ====
section
/-! DEFINITION. The micro-operations of rule R89: the command decode, prologue and epilogue (R100 to R108), the bit
sequencer (R120 to R126) and reset (R93, R210). Each is one CLK cycle, but for ADVANCE, which FALL performs. -/

namespace Sys2Proof.Machine

/-- ACCEPT latches the operands, derives the timing and takes the interrupts-disabled scope (R100). -/
def acceptAct (s : State) : State :=
  { irqLock s with
    regs := { s.regs with
      pinMask := s.inp.pinMaskIn
      base := s.inp.baseIn
      length := s.inp.lengthIn
      t0h := (derivedTiming s).t0h
      t1h := (derivedTiming s).t1h
      ttot := (derivedTiming s).ttot }
    pc := .pre }

/-- PRE when LENGTH is not 0: fetch byte 0 and select its bit 7 (R102). -/
def preFetch (s : State) : State :=
  { memRead s.regs.base s with
    regs := { s.regs with cur := memValue s.regs.base s, bitMask := 0x80 }
    pc := .lowWait }

/-- PRE's registers that do not depend on LENGTH (R102). -/
def preInit (s : State) : State :=
  { advanceStartDraw s with regs := { s.regs with byteIdx := 0, startTime := startInitDraw s, w := 0 } }

/-- PRE: watchdog reset, then the first fetch, or straight to POST where LENGTH is 0 (R102, R103). -/
def preAct (s : State) : State :=
  if s.regs.length = 0 then { preInit (wdtReset s) with pc := .post } else preFetch (preInit (wdtReset s))

/-- LOW_POLL: one unsuccessful poll of the low wait (R121). -/
def lowPollAct (s : State) : State := waitTick (cycleCount s)

/-- RISE: drive the pin high and record the new start time (R122). -/
def riseAct (s : State) : State :=
  { gpioWrite s.regs.pinMask true (cycleCount s) with
    regs := { s.regs with startTime := s.ccount, w := 0 }
    pc := .highWait }

/-- HIGH_POLL: one unsuccessful poll of the high wait (R123). -/
def highPollAct (s : State) : State := waitTick (cycleCount s)

/-- ADVANCE where bits remain in this byte (R126). -/
def advanceBit (s : State) : State :=
  { s with regs := { s.regs with bitMask := s.regs.bitMask >>> 1 }, pc := .lowWait }

/-- ADVANCE after bit 0 of the last byte (R126). -/
def advanceEnd (s : State) : State := { s with regs := { s.regs with bitMask := 0 }, pc := .post }

/-- ADVANCE after bit 0 of another byte, with the fetch of the next (R126). -/
def advanceByte (s : State) : State :=
  { memRead (nextByteAddr s) s with
    regs := { s.regs with
      cur := memValue (nextByteAddr s) s
      byteIdx := s.regs.byteIdx + 1
      bitMask := 0x80 }
    pc := .lowWait }

/-- ADVANCE to the next bit, to POST, or to the next byte (R126). -/
def advance (s : State) : State :=
  if s.regs.bitMask >>> 1 ≠ 0 then advanceBit s else if onLastByte s then advanceEnd s else advanceByte s

/-- The pin and W part of FALL (R124). -/
def fallEdge (s : State) : State :=
  { gpioWrite s.regs.pinMask false (cycleCount s) with regs := { s.regs with w := 0 } }

/-- FALL: drive the pin low, then ADVANCE in the same step (R124). -/
def fallAct (s : State) : State := advance (fallEdge s)

/-- POST: watchdog reset, then the release of the interrupts-disabled scope (R108). -/
def postAct (s : State) : State := { irqUnlock (wdtReset s) with pc := .idle }

/-- The cycle of RESET (R210). -/
def resetCycle (s : State) : State := cycle engineReset s

/-- The cycle of an idle step (R101). -/
def nopCycle (s : State) : State := cycle (fun t => t) s

/-- The cycle of ACCEPT (R100). -/
def acceptCycle (s : State) : State := cycle acceptAct s

/-- The cycle of PRE (R102). -/
def preCycle (s : State) : State := cycle preAct s

/-- The cycle of LOW_POLL (R121). -/
def lowPollCycle (s : State) : State := cycle lowPollAct s

/-- The cycle of RISE (R122). -/
def riseCycle (s : State) : State := cycle riseAct s

/-- The cycle of HIGH_POLL (R123). -/
def highPollCycle (s : State) : State := cycle highPollAct s

/-- The cycle of FALL (R124). -/
def fallCycle (s : State) : State := cycle fallAct s

/-- The cycle of POST (R108). -/
def postCycle (s : State) : State := cycle postAct s

/-- RESET (R210). -/
def execReset (s : State) : Host.Outcome State Fault Refusal := .next (resetCycle s)

/-- NOP as a micro-operation (R101). -/
def execNop (s : State) : Host.Outcome State Fault Refusal := .next (nopCycle s)

/-- ACCEPT (R100). -/
def execAccept (s : State) : Host.Outcome State Fault Refusal := .next (acceptCycle s)

/-- PRE (R102). -/
def execPre (s : State) : Host.Outcome State Fault Refusal := .next (preCycle s)

/-- LOW_POLL (R121). -/
def execLowPoll (s : State) : Host.Outcome State Fault Refusal := .next (lowPollCycle s)

/-- RISE (R122). -/
def execRise (s : State) : Host.Outcome State Fault Refusal := .next (riseCycle s)

/-- HIGH_POLL (R123). -/
def execHighPoll (s : State) : Host.Outcome State Fault Refusal := .next (highPollCycle s)

/-- FALL (R124). -/
def execFall (s : State) : Host.Outcome State Fault Refusal := .next (fallCycle s)

/-- ADVANCE (R126): it takes no step of its own. -/
def execAdvance (s : State) : Host.Outcome State Fault Refusal := .next (advance s)

/-- POST (R108). -/
def execPost (s : State) : Host.Outcome State Fault Refusal := .next (postCycle s)

/-- A step at `pc` code 5 behaves as RESET (R93). -/
def execUnreachablePc5 (s : State) : Host.Outcome State Fault Refusal := .next (resetCycle s)

/-- A step at `pc` code 6 behaves as RESET (R93). -/
def execUnreachablePc6 (s : State) : Host.Outcome State Fault Refusal := .next (resetCycle s)

/-- A step at `pc` code 7 behaves as RESET (R93). -/
def execUnreachablePc7 (s : State) : Host.Outcome State Fault Refusal := .next (resetCycle s)

end Sys2Proof.Machine
end

