-- ==== Sys2Proof/Machine/Command.lean ====
section
/-! DEFINITION. The command words TRANSMIT and NOP (R86, R87): one CLK cycle of the engine with the word on the
command ports. -/

namespace Sys2Proof.Machine

/-- One step of the engine: the micro-operation that RST, `pc` and the phase's condition select (R89). -/
def engineStep (s : State) : State :=
  if s.inp.rst then resetCycle s
  else
    match s.pc with
    | .idle => if s.inp.start then acceptCycle s else nopCycle s
    | .pre => preCycle s
    | .lowWait => if lowWaitOver s then riseCycle s else lowPollCycle s
    | .highWait => if highWaitOver (highTime s) s then fallCycle s else highPollCycle s
    | .post => postCycle s
    | .code5 => resetCycle s
    | .code6 => resetCycle s
    | .code7 => resetCycle s

/-- TRANSMIT with its word on the ports: accepted in IDLE (R100), not looked at while busy (R109), lost where RST is 1
(R194). The rest of the transmission is the steps that follow (R105). -/
def transmitWord (pinMask : PinMask) (base : Addr) (length : Len) (s : State) : State :=
  engineStep (driveCommand true pinMask base length s)

/-- TRANSMIT (R86, R100, R109). -/
def execTransmit (pinMask : PinMask) (base : Addr) (length : Len) (s : State) : Host.Outcome State Fault Refusal :=
  .next (transmitWord pinMask base length s)

/-- NOP as a command word: no command is presented in this step (R87, R101). -/
def execNopCmd (s : State) : Host.Outcome State Fault Refusal := .next (engineStep (driveNoCommand s))

end Sys2Proof.Machine
end

