-- ==== Sys2Proof/Machine/HostCall.lean ====
section
/-! DEFINITION. The host's payload operations (R165 to R177): software that runs only while the engine is idle, takes
no engine step, and touches only payload memory, the framebuffer's length and what is handed back. -/

namespace Sys2Proof.Machine

/-- The framebuffer placed at `addr` with the bytes that a whole number of LEDs takes (R165). -/
def initializeAt (addr : Addr) (bytes : List Byte) (s : State) : State :=
  storeBytes addr (bytes.take (initializedLen bytes))
    { s with fb := { base := addr, len := initializedLen bytes, dead := false } }

/-- `initialize(bytes)` where the allocation has failed: the driver instance is dead (R166). What the buffer then holds
is not stated, and its bytes are free values. DESIGN CHOICE (log entry 27): base and length stay, which no call of the
dead driver reads, and no other byte of memory changes. -/
def initializeFailed (s : State) : State :=
  giveBack .allocFailed { loseBuffer s with fb := { s.fb with dead := true } }

/-- `initialize(bytes)` (R165, R166). -/
def fbInitialize (bytes : List Byte) (s : State) : State :=
  match allocDraw (initializedLen bytes) s with
  | some addr => giveBack .nothing (initializeAt addr bytes (advanceAllocDraw s))
  | none => initializeFailed (advanceAllocDraw s)

/-- `overwriteLed` (R167): green, red, blue in the stored order. -/
def overwriteLed (index : Nat) (r g b : Byte) (s : State) : State :=
  giveBack .nothing (if ledInBounds index s then storeFb (index * 3) [g, r, b] s else s)

/-- `overwriteRange` (R168). -/
def overwriteRange (startIndex : Nat) (bytes : List Byte) (s : State) : State :=
  giveBack .nothing (storeFb (startIndex * 3) (fittingPrefix startIndex bytes s) s)

/-- The framebuffer bytes of `n` positions from an offset on (R161). -/
def fbSlice (off n : Nat) (s : State) : List Byte := s.mem.readBytes (fbAddr off s) n

/-- `mergeLed` (R169). -/
def mergeLed (index : Nat) (r g b : Byte) (s : State) : State :=
  giveBack .nothing
    (if ledInBounds index s then storeFb (index * 3) (orBytes (fbSlice (index * 3) 3 s) [g, r, b]) s else s)

/-- `mergeRange` (R170). -/
def mergeRange (startIndex : Nat) (bytes : List Byte) (s : State) : State :=
  giveBack .nothing
    (storeFb (startIndex * 3)
      (orBytes (fbSlice (startIndex * 3) (fittingPrefix startIndex bytes s).length s)
        (fittingPrefix startIndex bytes s)) s)

/-- The result of `readLed`: (red, green, blue), or the empty result out of bounds (R171). -/
def ledAt (index : Nat) (s : State) : HostResult :=
  if ledInBounds index s then
    .led (s.mem.read (fbAddr (index * 3 + 1) s).toNat) (s.mem.read (fbAddr (index * 3) s).toNat)
      (s.mem.read (fbAddr (index * 3 + 2) s).toNat)
  else .empty

/-- `readLed` (R171). -/
def readLed (index : Nat) (s : State) : State := giveBack (ledAt index s) s

/-- `shiftRight` (R172). -/
def shiftRight (ledCount : Nat) (s : State) : State :=
  giveBack .nothing (storeFb 0 (shiftRightBytes (3 * ledCount) (fbBytes s)) s)

/-- `shiftLeft` (R173). -/
def shiftLeft (ledCount : Nat) (s : State) : State :=
  giveBack .nothing (storeFb 0 (shiftLeftBytes (3 * ledCount) (fbBytes s)) s)

/-- `toWireOrderInPlace` (R176): the caller's bytes change in place. -/
def toWireOrderInPlace (bytes : ByteSeq) (s : State) : State :=
  giveBack .nothing (storeBytes bytes.addr (swapTriples (s.mem.readBytes bytes.addr bytes.len)) s)

/-- `asWireOrder` (R177): the caller's bytes are not touched. -/
def asWireOrder (_bytes : ByteSeq) (s : State) : State := giveBack .nothing s

/-- The table's `initialize` (R165). -/
def execFbInitialize (bytes : List Byte) (s : State) : Host.Outcome State Fault Refusal :=
  whenAlive (fbInitialize bytes) s

/-- `overwriteLed` (R167). -/
def execOverwriteLed (index : Nat) (r g b : Byte) (s : State) : Host.Outcome State Fault Refusal :=
  whenAlive (overwriteLed index r g b) s

/-- `overwriteRange` (R168). -/
def execOverwriteRange (startIndex : Nat) (bytes : List Byte) (s : State) : Host.Outcome State Fault Refusal :=
  whenAlive (overwriteRange startIndex bytes) s

/-- `mergeLed` (R169). -/
def execMergeLed (index : Nat) (r g b : Byte) (s : State) : Host.Outcome State Fault Refusal :=
  whenAlive (mergeLed index r g b) s

/-- `mergeRange` (R170). -/
def execMergeRange (startIndex : Nat) (bytes : List Byte) (s : State) : Host.Outcome State Fault Refusal :=
  whenAlive (mergeRange startIndex bytes) s

/-- `readLed` (R171). -/
def execReadLed (index : Nat) (s : State) : Host.Outcome State Fault Refusal := whenAlive (readLed index) s

/-- `shiftRight` (R172). -/
def execShiftRight (ledCount : Nat) (s : State) : Host.Outcome State Fault Refusal :=
  whenAlive (shiftRight ledCount) s

/-- `shiftLeft` (R173). -/
def execShiftLeft (ledCount : Nat) (s : State) : Host.Outcome State Fault Refusal := whenAlive (shiftLeft ledCount) s

/-- `toWireOrderInPlace` (R176). The adapter does not use the framebuffer, so a dead driver does not stop it. -/
def execToWireOrderInPlace (bytes : ByteSeq) (s : State) : Host.Outcome State Fault Refusal :=
  whenIdle (fun t => .next (toWireOrderInPlace bytes t)) s

/-- `asWireOrder` (R177). -/
def execAsWireOrder (bytes : ByteSeq) (s : State) : Host.Outcome State Fault Refusal :=
  whenIdle (fun t => .next (asWireOrder bytes t)) s

end Sys2Proof.Machine
end

