-- ==== Sys2Proof/Machine/Primitive.lean ====
section
/-! DEFINITION. The primitives of rules R140 to R149 and R62 as operations of their own. Each "takes no step of its
own" (the head of spec file 42), so CCOUNT and the step number stay. -/

namespace Sys2Proof.Machine

/-- IrqLock (R140). -/
def execIrqLock (s : State) : Host.Outcome State Fault Refusal := .next (irqLock s)

/-- IrqUnlock (R141). -/
def execIrqUnlock (s : State) : Host.Outcome State Fault Refusal := .next (irqUnlock s)

/-- GpioWrite (R143). -/
def execGpioWrite (mask : PinMask) (level : Bool) (s : State) : Host.Outcome State Fault Refusal :=
  .next (gpioWrite mask level s)

/-- WdtReset (R146). -/
def execWdtReset (s : State) : Host.Outcome State Fault Refusal := .next (wdtReset s)

/-- WaitTick (R147). -/
def execWaitTick (s : State) : Host.Outcome State Fault Refusal := .next (waitTick s)

/-- CycleCount (R149). -/
def execCycleCount (s : State) : Host.Outcome State Fault Refusal := .next (cycleCount s)

/-- MemRead (R62). -/
def execMemRead (addr : Addr) (s : State) : Host.Outcome State Fault Refusal := .next (memRead addr s)

end Sys2Proof.Machine
end

