-- ==== Sys2Proof/Machine/Pseudo.lean ====
section
/-! DEFINITION. The pseudo-operations flush, writeRgb and writeGrb (R96): host calls and one TRANSMIT. -/

namespace Sys2Proof.Machine

/-- `flush(pinMask) = transmit(pinMask, &framebuffer.bytes, framebuffer.length)` (R96, R111). -/
def flush (pinMask : PinMask) (s : State) : State :=
  transmitWord pinMask s.fb.base (BitVec.ofNat 32 s.fb.len) s

/-- `writeRgb(pinMask, bytes, n)`: reorder in place, then transmit (R96, R112). -/
def writeRgb (pinMask : PinMask) (bytes : ByteSeq) (n : Len) (s : State) : State :=
  transmitWord pinMask bytes.addr n (toWireOrderInPlace bytes s)

/-- `writeGrb(pinMask, bytes, n)`: the pass-through, then transmit (R96, R112). -/
def writeGrb (pinMask : PinMask) (bytes : ByteSeq) (n : Len) (s : State) : State :=
  transmitWord pinMask bytes.addr n (asWireOrder bytes s)

/-- `flush` (R96): refused after an allocation failure (R166). -/
def execFlush (pinMask : PinMask) (s : State) : Host.Outcome State Fault Refusal := whenAlive (flush pinMask) s

/-- `writeRgb` (R96). -/
def execWriteRgb (pinMask : PinMask) (bytes : ByteSeq) (n : Len) (s : State) : Host.Outcome State Fault Refusal :=
  whenIdle (fun t => .next (writeRgb pinMask bytes n t)) s

/-- `writeGrb` (R96). -/
def execWriteGrb (pinMask : PinMask) (bytes : ByteSeq) (n : Len) (s : State) : Host.Outcome State Fault Refusal :=
  whenIdle (fun t => .next (writeGrb pinMask bytes n t)) s

end Sys2Proof.Machine
end

