-- ==== Sys2Proof/Machine/Wire.lean ====
section
/-! DEFINITION. The wire symbols SYM0 and SYM1 (R80 to R82) as whole pulses: the rising edge, the high wait of the
symbol's own high time, the falling edge, and the low wait up to the next rising edge. -/

namespace Sys2Proof.Machine

/-- The high wait and the falling edge of a symbol with high time `t` (R120 steps 3 and 4), RST first (R194). The
first argument bounds the number of polls (R129). -/
def symbolHigh (t : CycleWord) : Nat → State → State
  | 0, s => s
  | n + 1, s =>
    if s.inp.rst then resetCycle s
    else if highWaitOver t s then fallCycle s
    else symbolHigh t n (highPollCycle s)

/-- The low wait of a symbol (R120 step 1), up to the step whose poll succeeds. After the last symbol there is none
(R85), since the phase is then POST. -/
def symbolLow : Nat → State → State
  | 0, s => s
  | n + 1, s =>
    if s.inp.rst = false ∧ s.pc = .lowWait ∧ lowWaitOver s = false then symbolLow n (lowPollCycle s) else s

/-- A symbol of high time `t` (R80): no wait has more than `2^CW` steps (R129). -/
def symbol (t : CycleWord) (s : State) : State :=
  if s.inp.rst then resetCycle s else symbolLow (2 ^ 32) (symbolHigh t (2 ^ 32) (riseCycle s))

/-- SYM0 (R81). -/
def execSym0 (s : State) : Host.Outcome State Fault Refusal := .next (symbol (highTimeOf false s) s)

/-- SYM1 (R82). -/
def execSym1 (s : State) : Host.Outcome State Fault Refusal := .next (symbol (highTimeOf true s) s)

end Sys2Proof.Machine
end

