-- ==== Sys2Proof/Machine/Dispatch.lean ====
section
/-! DEFINITION. The meaning of every operation of the table, one arm a constructor. -/

namespace Sys2Proof.Machine

def exec (i : Instr) (s : State) : Host.Outcome State Fault Refusal :=
  match i with
  | .transmit pinMask base length => Sys2Proof.Machine.execTransmit pinMask base length s
  | .nopCmd => Sys2Proof.Machine.execNopCmd s
  | .sym0 => Sys2Proof.Machine.execSym0 s
  | .sym1 => Sys2Proof.Machine.execSym1 s
  | .reset => Sys2Proof.Machine.execReset s
  | .nop => Sys2Proof.Machine.execNop s
  | .accept => Sys2Proof.Machine.execAccept s
  | .pre => Sys2Proof.Machine.execPre s
  | .lowPoll => Sys2Proof.Machine.execLowPoll s
  | .rise => Sys2Proof.Machine.execRise s
  | .highPoll => Sys2Proof.Machine.execHighPoll s
  | .fall => Sys2Proof.Machine.execFall s
  | .advance => Sys2Proof.Machine.execAdvance s
  | .post => Sys2Proof.Machine.execPost s
  | .unreachablePc5 => Sys2Proof.Machine.execUnreachablePc5 s
  | .unreachablePc6 => Sys2Proof.Machine.execUnreachablePc6 s
  | .unreachablePc7 => Sys2Proof.Machine.execUnreachablePc7 s
  | .irqLock => Sys2Proof.Machine.execIrqLock s
  | .irqUnlock => Sys2Proof.Machine.execIrqUnlock s
  | .gpioWrite mask level => Sys2Proof.Machine.execGpioWrite mask level s
  | .wdtReset => Sys2Proof.Machine.execWdtReset s
  | .waitTick => Sys2Proof.Machine.execWaitTick s
  | .cycleCount => Sys2Proof.Machine.execCycleCount s
  | .memRead addr => Sys2Proof.Machine.execMemRead addr s
  | .fbInitialize bytes => Sys2Proof.Machine.execFbInitialize bytes s
  | .overwriteLed index r g b => Sys2Proof.Machine.execOverwriteLed index r g b s
  | .overwriteRange startIndex bytes => Sys2Proof.Machine.execOverwriteRange startIndex bytes s
  | .mergeLed index r g b => Sys2Proof.Machine.execMergeLed index r g b s
  | .mergeRange startIndex bytes => Sys2Proof.Machine.execMergeRange startIndex bytes s
  | .readLed index => Sys2Proof.Machine.execReadLed index s
  | .shiftRight ledCount => Sys2Proof.Machine.execShiftRight ledCount s
  | .shiftLeft ledCount => Sys2Proof.Machine.execShiftLeft ledCount s
  | .toWireOrderInPlace bytes => Sys2Proof.Machine.execToWireOrderInPlace bytes s
  | .asWireOrder bytes => Sys2Proof.Machine.execAsWireOrder bytes s
  | .flush pinMask => Sys2Proof.Machine.execFlush pinMask s
  | .writeRgb pinMask bytes n => Sys2Proof.Machine.execWriteRgb pinMask bytes n s
  | .writeGrb pinMask bytes n => Sys2Proof.Machine.execWriteGrb pinMask bytes n s

end Sys2Proof.Machine
end

