-- ==== Sys2Proof/Machine/Fetch.lean ====
section
/-! DEFINITION. What the next step runs: the host's next move where the engine is idle and no command or reset stands
on the ports (R6), else the micro-operation of R89. And how a word of the table is placed so that the next step runs
it. -/

namespace Sys2Proof.Machine

/-- What a step runs. -/
inductive Fetched where
  /-- An operation, from the state without the host move it was taken from. -/
  | run (i : Instr) (s : State)
  /-- A host move that is no operation of the table, and the state it leaves. -/
  | moved (s : State)
  /-- A host move that the host cannot make. -/
  | refuse (r : Refusal)

/-- The operations the host can issue: command words, host calls and pseudo-operations. -/
def hostMayRun (i : Instr) : Bool :=
  match i.format with
  | .cmd => true
  | .hostcall => true
  | .pseudo => true
  | .wire => false
  | .uop => false
  | .primitive => false

/-- The host moves only while the engine is idle (R6, R106) and neither RST nor a command strobe stands on the
ports. -/
def hostMayMove (s : State) : Bool := !busy s && !s.inp.rst && !s.inp.start

/-- A host move: an operation to run, or its effect on memory, the pins, the framebuffer or what is handed back. -/
def takeHostMove : HostMove → State → Fetched
  | .run i, s => if hostMayRun i then .run i s else .refuse .notHostOperation
  | .store addr v, s => .moved (storeByte addr v s)
  | .load addr, s => .moved (loadByte addr s)
  | .setPinMode mask, s => .moved (setPinMode mask s)
  | .writePin mask level, s => .moved (writePin mask level s)
  | .teardown, s => .moved (teardown s)

/-- The micro-operation of the next step (R89). -/
def nextMicroOp (s : State) : Instr := decodeMicroOp s.inp.rst s.pc (phaseCondition s)

/-- The decode key of the next step (R89). -/
def nextKey (s : State) : BitVec 5 := microOpKey s.inp.rst s.pc (phaseCondition s)

/-- What the next step runs. -/
def fetch (s : State) : Fetched :=
  match s.hostQueue with
  | [] => .run (nextMicroOp s) s
  | m :: rest =>
    if hostMayMove s then takeHostMove m { s with hostQueue := rest } else .run (nextMicroOp s) s

/-- Make the condition of the phase `pc` hold or not, in the phases that have one (R89): START in IDLE, `e >= TTOT`
in LOW_WAIT, `e >= t` in HIGH_WAIT. -/
def placeCondition (cond : Bool) (s : State) : State :=
  match s.pc with
  | .idle =>
    { s with inp := { s.inp with start := cond }, hostQueue := if cond then s.hostQueue else [] }
  | .lowWait =>
    { s with regs := { s.regs with startTime := s.ccount, ttot := if cond then 0 else 1 } }
  | .highWait =>
    { s with regs := { s.regs with
        startTime := s.ccount, t0h := if cond then 0 else 1, t1h := if cond then 0 else 1 } }
  | .pre => s
  | .post => s
  | .code5 => s
  | .code6 => s
  | .code7 => s

/-- Place RST, `pc` and the condition of a micro-operation key (R89). -/
def placeKey (k : BitVec 5) (s : State) : State :=
  placeCondition (k.getLsbD 0)
    { s with pc := Phase.ofCode (k.extractLsb' 1 3), inp := { s.inp with rst := k.getLsbD 4 } }

/-- Place a command word on the ports of an idle engine (R86). -/
def placeCommand (w : BitVec 81) (s : State) : State :=
  let ported := driveCommand (w.getLsbD 80) (w.extractLsb' 64 16) (w.extractLsb' 32 32) (w.extractLsb' 0 32) s
  { ported with
    pc := .idle
    inp := { ported.inp with rst := false }
    hostQueue := if w.getLsbD 80 then s.hostQueue else [] }

/-- Place the engine at the rising edge of a symbol with this data bit (R80). -/
def placeSymbol (bit : Bool) (s : State) : State :=
  { s with
    pc := .lowWait
    inp := { s.inp with rst := false }
    regs := { s.regs with startTime := s.ccount, ttot := 0, bitMask := 0x80, cur := if bit then 0x80 else 0 } }

/-- The state in which the next step runs the instruction with these bits, by the formats of `decodeWord`. -/
def placeWord (nbits w : Nat) (s : State) : State :=
  if nbits = 1 then placeSymbol (w.testBit 0) s
  else if nbits = 5 ∨ nbits = 8 then placeKey (BitVec.ofNat 5 w) s
  else if nbits = 81 ∨ nbits = 88 then placeCommand (BitVec.ofNat 81 w) s
  else s

end Sys2Proof.Machine
end

