-- ==== Sys2Proof/Machine/Step.lean ====
section
/-! DEFINITION. One step of the machine: what `fetch` names, run by `exec`. -/

namespace Sys2Proof.Machine

/-- One step: a CLK cycle of the engine, or a move of the host between two of them. -/
def step (s : State) : Host.Outcome State Fault Refusal :=
  match fetch s with
  | .run i t => exec i t
  | .moved t => .next t
  | .refuse r => .refused r

/-- `s` with the instruction of a table word placed where the next step takes it (log entry 12). -/
def State.withFetchWord (s : State) (nbits w : Nat) : State := placeWord nbits w s

end Sys2Proof.Machine
end

