-- ==== Sys2Proof/Safety.lean ====
section
/-! DEFINITION. What counts as a safe run: the invariants of the reachable states (R25, R38, R162), well-formed timing
(R26), a run that no reset cuts (R110), and the premises of a launch (R92, R212). -/

namespace Sys2Proof.Machine

/-- `pc` is one of the five phases (R38 (e)). -/
def Phase.legal (p : Phase) : Prop := p ≠ .code5 ∧ p ≠ .code6 ∧ p ≠ .code7

/-- BITMASK selects one bit (R38 (a)). -/
def OneHotByte (b : Byte) : Prop :=
  b = 0x80 ∨ b = 0x40 ∨ b = 0x20 ∨ b = 0x10 ∨ b = 0x08 ∨ b = 0x04 ∨ b = 0x02 ∨ b = 0x01

/-- `pc` is LOW_WAIT or HIGH_WAIT. -/
def Waiting (s : State) : Prop := s.pc = .lowWait ∨ s.pc = .highWait

/-- The position is the first bit of the transmission (R24). -/
def FirstBit (s : State) : Prop := s.regs.byteIdx = 0 ∧ s.regs.bitMask = 0x80

/-- R38 (a): the selector, the byte index and the byte in CUR. -/
def PositionInv (s : State) : Prop :=
  Waiting s → OneHotByte s.regs.bitMask ∧ s.regs.byteIdx.toNat < s.regs.length.toNat ∧
    s.regs.cur = s.mem.read (s.regs.base + s.regs.byteIdx).toNat

/-- R38 (d), in the waits: RESET leaves W unspecified (R39), and PRE clears it. -/
def PollCountInv (s : State) : Prop := Waiting s → s.regs.w.toNat ≤ s.params.wdtThresh

/-- Every pin of PINMASK is high. -/
def PinsHigh (s : State) : Prop := s.pin &&& s.regs.pinMask = s.regs.pinMask

/-- Every pin of PINMASK is low. -/
def PinsLow (s : State) : Prop := s.pin &&& s.regs.pinMask = 0

/-- R38 (b), (c): the pins of PINMASK in the waits. Where the position is past the first bit a falling step has
happened in this transmission. The pins are low in POST too, after a transmission of at least one byte (R130). -/
def PinInv (s : State) : Prop :=
  (s.pc = .highWait → PinsHigh s) ∧ (s.pc = .lowWait → FirstBit s ∨ PinsLow s) ∧
  (s.pc = .post → s.regs.length = 0 ∨ PinsLow s)

/-- R25: IRQ_DISABLE is 1 exactly when `pc` is not IDLE. -/
def IrqInv (s : State) : Prop := s.irqDisable = true ↔ s.pc ≠ .idle

/-- R162 (a), and that the region lies inside the address space. -/
def FramebufferInv (s : State) : Prop := s.fb.len % 3 = 0 ∧ s.fb.base.toNat + s.fb.len ≤ 2 ^ 32

/-- The invariants of the reachable states. -/
def MachineInv (s : State) : Prop :=
  Phase.legal s.pc ∧ IrqInv s ∧ PositionInv s ∧ PollCountInv s ∧ PinInv s ∧ FramebufferInv s ∧ s.mem.wf = true

/-- Well-formed timing: `1 <= x[T0H] < x[T1H] < x[TTOT]` (R26). -/
def WellFormedTiming (r : Regs) : Prop := 1 ≤ r.t0h ∧ r.t0h < r.t1h ∧ r.t1h < r.ttot

/-- RST is 0 in the next step and in every scheduled one: only RST ends a transmission early (R110). -/
def NoReset (s : State) : Prop := s.inp.rst = false ∧ ∀ i ∈ s.upcoming, i.rst = false

/-- The mask names exactly one pin (R92 (b)). -/
def OneHotMask (m : PinMask) : Prop := ∃ p : Fin 16, m = BitVec.twoPow 16 p.val

/-- The premises of a launch of TRANSMIT (R92, R212, R214, R219). The engine checks none of them, so `exec` runs a
launch that breaks one as well. How the low time of LATCH_GAP is counted the spec does not say: the last clause counts
the CLK cycles since the last PinWrite event of the engine, on any mask, and the pins' being low is asked for at the
launch alone. The host's own `write(pin, 0)` leaves no event and takes no cycle here, so the low time since it is no
part of the premise. DESIGN CHOICE (log entry 29). -/
def LaunchPremises (pinMask : PinMask) (base : Addr) (length : Len) (s : State) : Prop :=
  OneHotMask pinMask ∧ pinMask &&& s.pinOutput = pinMask ∧ s.pin &&& pinMask = 0 ∧
  base.toNat + length.toNat ≤ 2 ^ 32 ∧
  1 ≤ (derivedTiming s).t0h ∧ (derivedTiming s).t0h < (derivedTiming s).t1h ∧
  (derivedTiming s).t1h < (derivedTiming s).ttot ∧
  ∀ e ∈ s.history, ∀ m l, e.kind = .pinWrite m l → e.step + s.params.latchGap < s.stepNo

/-- What every CLK cycle does beside the micro-operation it runs: CCOUNT and the step number advance by one (R10,
R33), the next input ports come up, the platform's pending set and hidden countdown move on (R34, R35), no byte of
payload memory changes (R60), and neither the framebuffer record, what was handed back, the host's remaining moves,
the pins' modes nor the parameters (R7) do. -/
def CycleFrame (s t : State) : Prop :=
  t.ccount = s.ccount + 1 ∧ t.stepNo = s.stepNo + 1 ∧ t.inp = nextInputs s ∧ t.upcoming = s.upcoming.tail ∧
  t.irqPending = pendingAfter s.irqDisable s ∧
  t.wdtElapsed = (if t.out.wdtReset then 0 else s.wdtElapsed + 1) ∧
  (∀ a, t.mem.read a = s.mem.read a) ∧
  t.fb = s.fb ∧ t.ret = s.ret ∧ t.hostQueue = s.hostQueue ∧ t.pinOutput = s.pinOutput ∧ t.params = s.params

/-- What a primitive leaves alone, since it takes no step of its own (the head of spec file 42): the input ports, the
clock, the step number, the pending set, every byte of payload memory, the host's side, the draws and the
parameters. -/
def PrimitiveFrame (s t : State) : Prop :=
  t.inp = s.inp ∧ t.upcoming = s.upcoming ∧ t.ccount = s.ccount ∧ t.stepNo = s.stepNo ∧
  t.irqPending = s.irqPending ∧ (∀ a, t.mem.read a = s.mem.read a) ∧
  t.fb = s.fb ∧ t.ret = s.ret ∧ t.hostQueue = s.hostQueue ∧ t.pinOutput = s.pinOutput ∧ t.draws = s.draws ∧
  t.params = s.params

/-- What every host software call leaves alone: the engine, its ports and flags, the pins, the clock, the watchdog,
the pending interrupts, the parameters and the history ("takes no engine step, and touches nothing but payload memory
and the driver instance's own length", the head of spec file 43). -/
def HostCallFrame (s t : State) : Prop :=
  t.regs = s.regs ∧ t.pc = s.pc ∧ t.irqDisable = s.irqDisable ∧ t.inp = s.inp ∧ t.upcoming = s.upcoming ∧
  t.out = s.out ∧ t.pin = s.pin ∧ t.pinOutput = s.pinOutput ∧ t.ccount = s.ccount ∧ t.sample = s.sample ∧
  t.stepNo = s.stepNo ∧ t.wdtElapsed = s.wdtElapsed ∧ t.irqPending = s.irqPending ∧ t.hostQueue = s.hostQueue ∧
  t.params = s.params ∧ t.history = s.history

/-- Each pin of the mask has the level, and every other pin the level it had (R143). -/
def PinsDriven (s t : State) (mask : PinMask) (level : Bool) : Prop :=
  ∀ p, p < 16 → t.pin.getLsbD p = if mask.getLsbD p then level else s.pin.getLsbD p

/-- The events appended, all tagged with the step number (R11). -/
def Appends (s t : State) (l : List EventKind) : Prop :=
  t.history = s.history ++ l.map (fun k => { step := s.stepNo, kind := k })

/-- In a wait, the polls counted in W are no more than the cycles elapsed since the rising step (R148). -/
def PollsWithinElapsed (s : State) : Prop := Waiting s → s.regs.w ≤ elapsed s

/-- `n` steps of the machine, stopping at the first that answers no next state. -/
def run : Nat → State → Host.Outcome State Fault Refusal
  | 0, s => .next s
  | n + 1, s =>
    match step s with
    | .next t => run n t
    | .fault r => .fault r
    | .refused r => .refused r

/-- The engine is idle and the driver instance alive: the framebuffer calls run (R106, R166). -/
def HostReady (s : State) : Prop := s.pc = .idle ∧ s.fb.dead = false

/-- The framebuffer calls and flush, which an allocation failure ends (R166). -/
def UsesFramebuffer : Instr → Prop
  | .fbInitialize _ => True
  | .overwriteLed _ _ _ _ => True
  | .overwriteRange _ _ => True
  | .mergeLed _ _ _ _ => True
  | .mergeRange _ _ => True
  | .readLed _ => True
  | .shiftRight _ => True
  | .shiftLeft _ => True
  | .flush _ => True
  | _ => False

/-- Byte `j` of the framebuffer (R161). -/
def bufAt (s : State) (j : Nat) : Byte := s.mem.read (fbAddr j s).toNat

/-- Byte `j` of a caller's byte sequence. -/
def seqAt (s : State) (b : ByteSeq) (j : Nat) : Byte := s.mem.read (b.addr + BitVec.ofNat 32 j).toNat

/-- The address lies outside the `n` bytes from `a` on, addresses modulo `2^AW`. -/
def OutsideRegion (a : Addr) (n : Nat) (x : Nat) : Prop := ∀ j, j < n → x ≠ (a + BitVec.ofNat 32 j).toNat

end Sys2Proof.Machine
end

