-- ==== Sys2Proof/Certificates/Slice0/Obligations.lean ====
section
/-! DEFINITION. The statements for the provers, from the spec's numbered rules. `exec i s = .next t` in a conclusion
says that the operation completes. A clause about draws or unspecified registers holds for every free value. -/

open Sys2Proof Sys2Proof.Machine

/-! ### Decoding and encoding (R80 to R93) -/

/-- Decoding the bits of an operation gives it back, every operand at every value (R80, R86, R89), and the rows that
have bits are those of the formats CMD, WIRE and UOP but ADVANCE (R90, R126). -/
def Obligations.DecodeEncodeIdentity : Prop :=
  (∀ (i : Instr) (n w : Nat), encode i = some (n, w) → decodeTableWord n w = some i) ∧
  ∀ i : Instr, (encode i).isSome = true ↔
    ((i.format = .cmd ∨ i.format = .wire ∨ i.format = .uop) ∧ i ≠ .advance)

/-- The table of R89: which micro-operation a step executes, from RST, `pc` and the phase's condition, with
`e = (in.CCOUNT - x[START]) mod 2^CW` and `t` the high time of the selected bit, and its decode key
`RST ++ pc[2:0] ++ COND`. -/
def Obligations.MicroOperationTable : Prop :=
  ∀ s : State,
    let e := s.ccount - s.regs.startTime
    let t := if s.regs.cur &&& s.regs.bitMask ≠ 0 then s.regs.t1h else s.regs.t0h
    (s.inp.rst = true → nextMicroOp s = .reset) ∧
    (s.inp.rst = false →
      (s.pc = .idle → s.inp.start = false → nextMicroOp s = .nop) ∧
      (s.pc = .idle → s.inp.start = true → nextMicroOp s = .accept) ∧
      (s.pc = .pre → nextMicroOp s = .pre) ∧
      (s.pc = .lowWait → e < s.regs.ttot → nextMicroOp s = .lowPoll) ∧
      (s.pc = .lowWait → s.regs.ttot ≤ e → nextMicroOp s = .rise) ∧
      (s.pc = .highWait → e < t → nextMicroOp s = .highPoll) ∧
      (s.pc = .highWait → t ≤ e → nextMicroOp s = .fall) ∧
      (s.pc = .post → nextMicroOp s = .post) ∧
      (s.pc = .code5 → nextMicroOp s = .unreachablePc5) ∧
      (s.pc = .code6 → nextMicroOp s = .unreachablePc6) ∧
      (s.pc = .code7 → nextMicroOp s = .unreachablePc7)) ∧
    decodeKey (nextKey s) = nextMicroOp s ∧
    (nextKey s).getLsbD 4 = s.inp.rst ∧
    (∀ k : BitVec 5, k.getLsbD 4 = true → decodeKey k = .reset) ∧
    (decodeKey 0b00000 = .nop ∧ decodeKey 0b00001 = .accept ∧
      decodeKey 0b00010 = .pre ∧ decodeKey 0b00011 = .pre ∧
      decodeKey 0b00100 = .lowPoll ∧ decodeKey 0b00101 = .rise ∧
      decodeKey 0b00110 = .highPoll ∧ decodeKey 0b00111 = .fall ∧
      decodeKey 0b01000 = .post ∧ decodeKey 0b01001 = .post)

/-- Every 81-bit word is a command (R86, R87, R91): OP = 1 is TRANSMIT with the fields of R86, OP = 0 is no command
whatever the other fields hold. With the worked example of R86. -/
def Obligations.CommandWordFields : Prop :=
  (∀ w : BitVec 81, decodeTableWord 81 w.toNat =
    some (if w.getLsbD 80 then
      .transmit (w.extractLsb' 64 16) (w.extractLsb' 32 32) (w.extractLsb' 0 32) else .nopCmd)) ∧
  decodeTableWord 81 0x100100000010000000001 = some (.transmit 0x0010 0x00000100 1)

/-- Sanity: a few words written out from the spec's encodings decode to what they stand for, and a bit above a
format's width is refused by name. The widths in whole bytes are the model's choice (log entry 9). -/
def Obligations.WrittenOutWordsDecode : Prop :=
  decodeTableWord 88 0x100010000020000000003 = some (.transmit 0x0001 0x00000200 3) ∧
  decodeTableWord 88 0x000010000020000000003 = some .nopCmd ∧
  decodeTableWord 8 0b00101 = some .rise ∧
  decodeTableWord 8 0b10111 = some .reset ∧
  decodeTableWord 8 0b01001 = some .post ∧
  decodeTableWord 8 0b01110 = some .unreachablePc7 ∧
  decodeTableWord 1 1 = some .sym1 ∧
  decodeWord 8 0b100000 = .error (.bitsAboveWidth 8)

/-! ### The step -/

/-- A step runs what it fetches: the micro-operation of R89 where the host has no move, else the host's next move,
taken from its queue. The host's own moves are a byte store and a byte read of payload memory (R60), setMode and a pin
write (R214), and the teardown of its driver instance, which destroys the framebuffer (R163). What rests on the model
alone: the host's queue and that its moves take no cycle (log entries 12 and 15, DESIGN CHOICE), the refusal of a queued
micro-operation, symbol or primitive as notHostOperation (log entry 20, DEDUCED), that setMode and the pin write take a
mask, append no event and check no pin mode (log entry 25, DESIGN CHOICE), and what a teardown leaves (log entry 27,
DESIGN CHOICE). -/
def Obligations.StepRunsFetched : Prop :=
  ∀ s : State,
    (s.hostQueue = [] ∨ s.pc ≠ .idle ∨ s.inp.rst = true ∨ s.inp.start = true →
      step s = exec (nextMicroOp s) s) ∧
    (∀ m rest, s.hostQueue = m :: rest → s.pc = .idle → s.inp.rst = false → s.inp.start = false →
      (∀ i, m = .run i → i.format = .cmd ∨ i.format = .hostcall ∨ i.format = .pseudo →
        step s = exec i { s with hostQueue := rest }) ∧
      (∀ i, m = .run i → i.format = .wire ∨ i.format = .uop ∨ i.format = .primitive →
        step s = .refused .notHostOperation) ∧
      (∀ a v, m = .store a v →
        step s = .next { s with hostQueue := rest, mem := s.mem.write a.toNat v }) ∧
      (∀ a, m = .load a →
        step s = .next { s with hostQueue := rest, ret := .byte (s.mem.read a.toNat) }) ∧
      (∀ p, m = .setPinMode p →
        step s = .next { s with hostQueue := rest, pinOutput := s.pinOutput ||| p }) ∧
      (∀ p l, m = .writePin p l →
        step s = .next { s with hostQueue := rest, pin := drivePins s.pin p l }) ∧
      (m = .teardown → ∃ t, step s = .next t ∧ HostCallFrame { s with hostQueue := rest } t ∧
        t.fb.len = 0 ∧ t.fb.dead = false ∧ t.ret = .nothing ∧ t.draws.startInits = s.draws.startInits ∧
        t.draws.allocs = s.draws.allocs ∧
        ∀ x, OutsideRegion s.fb.base s.fb.len x → t.mem.read x = s.mem.read x))

/-- A table word placed where the step takes its next instruction is the one that runs, for the formats CMD and UOP
in both their widths. The placement is the model's choice (log entry 12). -/
def Obligations.PlacedWordRuns : Prop :=
  ∀ (s : State) (nbits w : Nat) (i : Instr), nbits ≠ 1 → decodeTableWord nbits w = some i →
    step (s.withFetchWord nbits w) = exec i (s.withFetchWord nbits w)

/-- "In every CLK cycle it takes exactly one step": where the host has no move a step answers a next state, one cycle
on (R20, R33), and every operation that is no host call completes in every state (R190, R192), also in a phase that
would not select it, which is the model's choice (log entry 17). That the pins' modes stay in a step with RST = 1 is
the model's choice too (log entry 28). -/
def Obligations.EngineAlwaysSteps : Prop :=
  (∀ s : State, s.hostQueue = [] ∨ s.pc ≠ .idle ∨ s.inp.rst = true ∨ s.inp.start = true →
    ∃ t, step s = .next t ∧ CycleFrame s t) ∧
  (∀ (i : Instr) (s : State), i.format ≠ .hostcall → i.format ≠ .pseudo → ∃ t, exec i s = .next t)

/-! ### Micro-operations: result, flags, events and frame (R100 to R126, R210) -/

/-- ACCEPT latches the operands and the timing derived from CPU_FREQ, sets IRQ_DISABLE with its event, and goes to
PRE, for every operand value. No other register, pin or draw changes (R100). -/
def Obligations.AcceptLatchesCommand : Prop :=
  ∀ s : State, (s.pc = .idle → s.inp.rst = false → s.inp.start = true → step s = exec .accept s) ∧
    ∃ t, exec .accept s = .next t ∧
    t.regs = { s.regs with
      pinMask := s.inp.pinMaskIn, base := s.inp.baseIn, length := s.inp.lengthIn,
      t0h := (derivedTiming s).t0h, t1h := (derivedTiming s).t1h, ttot := (derivedTiming s).ttot } ∧
    t.irqDisable = true ∧ t.pc = .pre ∧ Appends s t [.irqLock] ∧ t.out = Outputs.quiet ∧
    t.pin = s.pin ∧ t.sample = s.sample ∧ t.draws = s.draws ∧ CycleFrame s t

/-- The timing values of R104. The three functions are configuration (R7): where the parameters list the frequency, the
first entry for it is the timing that ACCEPT latches, which is how the model holds them (log entry 3). Where they do
not: the floor and ceiling formulas, the values at 80 and 160 MHz, `ttot` never shorter than 1250 ns, and well-formed
from 3 MHz up and malformed below. -/
def Obligations.DefaultTimingDerivation : Prop :=
  (∀ s : State, (∀ p ∈ s.params.timing, p.1 ≠ s.inp.cpuFreq) →
    let f := s.inp.cpuFreq.toNat
    let d := derivedTiming s
    d.t0h.toNat = 350 * f / 1000 ∧ d.t1h.toNat = 700 * f / 1000 ∧ d.ttot.toNat = (1250 * f + 999) / 1000 ∧
    1250 * f ≤ d.ttot.toNat * 1000 ∧
    (3 ≤ f ↔ 1 ≤ d.t0h ∧ d.t0h < d.t1h ∧ d.t1h < d.ttot)) ∧
  (∀ (s : State) (before after : List (Freq × Timing)) (d : Timing),
    s.params.timing = before ++ (s.inp.cpuFreq, d) :: after → (∀ p ∈ before, p.1 ≠ s.inp.cpuFreq) →
    derivedTiming s = d ∧
    ∃ t, exec .accept s = .next t ∧ t.regs.t0h = d.t0h ∧ t.regs.t1h = d.t1h ∧ t.regs.ttot = d.ttot) ∧
  defaultTiming 80 = { t0h := 28, t1h := 56, ttot := 100 } ∧
  defaultTiming 160 = { t0h := 56, t1h := 112, ttot := 200 }

/-- The idle step: NOP as a micro-operation, and as a command word at an idle engine out of reset. Nothing changes
but what every cycle changes, and no event is appended (R101). -/
def Obligations.IdleStepChangesNothing : Prop :=
  (∀ s : State, ∃ t, exec .nop s = .next t ∧
    t.regs = s.regs ∧ t.pc = s.pc ∧ t.irqDisable = s.irqDisable ∧ Appends s t [] ∧ t.out = Outputs.quiet ∧
    t.pin = s.pin ∧ t.sample = s.sample ∧ t.draws = s.draws ∧ CycleFrame s t) ∧
  (∀ s : State, s.pc = .idle → s.inp.rst = false → ∃ t, exec .nopCmd s = .next t ∧
    t.regs = s.regs ∧ t.pc = .idle ∧ t.irqDisable = s.irqDisable ∧ Appends s t [] ∧ t.out = Outputs.quiet ∧
    t.pin = s.pin ∧ t.sample = s.sample ∧ t.draws = s.draws ∧ CycleFrame (driveNoCommand s) t)

/-- PRE: watchdog reset and the draw into START. With a payload, byte 0 into CUR and the selector at bit 7, and on to
LOW_WAIT. With LENGTH = 0 no fetch, CUR and BITMASK unwritten, straight to POST (R102, R103). -/
def Obligations.PrologueFetchesFirstByte : Prop :=
  ∀ s : State,
    let v := s.mem.read s.regs.base.toNat
    (s.pc = .pre → s.inp.rst = false → step s = exec .pre s) ∧
    ∃ t, exec .pre s = .next t ∧
    (if s.regs.length = 0 then
      t.regs = { s.regs with byteIdx := 0, startTime := startInitDraw s, w := 0 } ∧ t.pc = .post ∧
      Appends s t [.wdtReset] ∧ t.out = { wdtReset := true, gpio := none, mem := none }
    else
      t.regs = { s.regs with byteIdx := 0, startTime := startInitDraw s, w := 0, cur := v, bitMask := 0x80 } ∧
      t.pc = .lowWait ∧ Appends s t [.wdtReset, .memRead s.regs.base v] ∧
      t.out = { wdtReset := true, gpio := none, mem := some { addr := s.regs.base, rdata := v } }) ∧
    t.irqDisable = s.irqDisable ∧ t.pin = s.pin ∧ t.sample = s.sample ∧
    t.draws = { s.draws with startInits := s.draws.startInits.tail, count := s.draws.count + 1 } ∧ CycleFrame s t

/-- TRANSMIT with LENGTH = 0 from an idle engine: ACCEPT, PRE and POST in three steps, the four events, no read and
no pin write, and the pins keep their level (R103). -/
def Obligations.EmptyTransmissionTakesThreeSteps : Prop :=
  ∀ s : State, s.pc = .idle → s.inp.start = true → s.inp.lengthIn = 0 → NoReset s →
    (∃ u, run 1 s = .next u ∧ u.pc ≠ .idle) ∧ (∃ u, run 2 s = .next u ∧ u.pc ≠ .idle) ∧
    ∃ t, run 3 s = .next t ∧ t.pc = .idle ∧ t.irqDisable = false ∧ t.pin = s.pin ∧
      (∀ a, t.mem.read a = s.mem.read a) ∧
      t.history = s.history ++
        [{ step := s.stepNo, kind := .irqLock }, { step := s.stepNo + 1, kind := .wdtReset },
         { step := s.stepNo + 2, kind := .wdtReset }, { step := s.stepNo + 2, kind := .irqUnlock }]

/-- LOW_POLL and HIGH_POLL: the in-wait bookkeeping of R147 and nothing else. The phase, START, the position, the
timing and the pins stay (R121, R123). -/
def Obligations.PollsOnlyCount : Prop :=
  ∀ (s : State) (i : Instr), i = .lowPoll ∨ i = .highPoll → s.params.wf →
    (i = .lowPoll → s.pc = .lowWait → s.inp.rst = false → elapsed s < s.regs.ttot → step s = exec i s) ∧
    (i = .highPoll → s.pc = .highWait → s.inp.rst = false → elapsed s < highTime s → step s = exec i s) ∧
    ∃ t, exec i s = .next t ∧
    t.pc = s.pc ∧ t.irqDisable = s.irqDisable ∧ t.pin = s.pin ∧ t.sample = s.ccount ∧ t.draws = s.draws ∧
    t.regs = { s.regs with w := t.regs.w } ∧
    (s.params.wdtThresh < s.regs.w.toNat + 1 →
      t.regs.w = 0 ∧ Appends s t [.wdtReset] ∧ t.out = { wdtReset := true, gpio := none, mem := none }) ∧
    (s.regs.w.toNat + 1 ≤ s.params.wdtThresh →
      t.regs.w.toNat = s.regs.w.toNat + 1 ∧ Appends s t [] ∧ t.out = Outputs.quiet) ∧
    CycleFrame s t

/-- RISE: the pins of PINMASK go high, START takes the sample of this step, W is cleared. The result does not depend on
what START held, so nothing after the first RISE depends on the draw START_INIT (R122). -/
def Obligations.RiseDrivesHigh : Prop :=
  ∀ s : State, (s.pc = .lowWait → s.inp.rst = false → s.regs.ttot ≤ elapsed s → step s = exec .rise s) ∧
    ∃ t, exec .rise s = .next t ∧
    t.regs = { s.regs with startTime := s.ccount, w := 0 } ∧ t.pc = .highWait ∧ t.irqDisable = s.irqDisable ∧
    PinsDriven s t s.regs.pinMask true ∧ Appends s t [.pinWrite s.regs.pinMask true] ∧
    t.out = { wdtReset := false, gpio := some { mask := s.regs.pinMask, level := true }, mem := none } ∧
    t.sample = s.ccount ∧ t.draws = s.draws ∧ CycleFrame s t ∧
    ∀ x, exec .rise { s with regs := { s.regs with startTime := x } } = .next t

/-- FALL: the pins of PINMASK go low, W is cleared, START stays, and ADVANCE moves to the next bit, to POST after
bit 0 of the last byte, or to the next byte with its fetch, in the same step (R124, R126). -/
def Obligations.FallDrivesLowAndAdvances : Prop :=
  ∀ s : State,
    let next := s.regs.base + s.regs.byteIdx + 1
    (s.pc = .highWait → s.inp.rst = false → highTime s ≤ elapsed s → step s = exec .fall s) ∧
    ∃ t, exec .fall s = .next t ∧
    PinsDriven s t s.regs.pinMask false ∧ t.irqDisable = s.irqDisable ∧ t.sample = s.ccount ∧ t.draws = s.draws ∧
    t.out.wdtReset = false ∧ t.out.gpio = some { mask := s.regs.pinMask, level := false } ∧
    (if s.regs.bitMask >>> 1 ≠ 0 then
      t.regs = { s.regs with w := 0, bitMask := s.regs.bitMask >>> 1 } ∧ t.pc = .lowWait ∧
      Appends s t [.pinWrite s.regs.pinMask false] ∧ t.out.mem = none
    else if s.regs.byteIdx.toNat + 1 = s.regs.length.toNat then
      t.regs = { s.regs with w := 0, bitMask := 0 } ∧ t.pc = .post ∧
      Appends s t [.pinWrite s.regs.pinMask false] ∧ t.out.mem = none
    else
      t.regs = { s.regs with
        w := 0, cur := s.mem.read next.toNat, byteIdx := s.regs.byteIdx + 1, bitMask := 0x80 } ∧
      t.pc = .lowWait ∧
      Appends s t [.pinWrite s.regs.pinMask false, .memRead next (s.mem.read next.toNat)] ∧
      t.out.mem = some { addr := next, rdata := s.mem.read next.toNat }) ∧
    CycleFrame s t

/-- ADVANCE on its own: the three arms of R126, in no step of its own. -/
def Obligations.AdvanceArms : Prop :=
  ∀ s : State,
    let next := s.regs.base + s.regs.byteIdx + 1
    ∃ t, exec .advance s = .next t ∧
    (if s.regs.bitMask >>> 1 ≠ 0 then
      t.regs = { s.regs with bitMask := s.regs.bitMask >>> 1 } ∧ t.pc = .lowWait ∧ Appends s t [] ∧ t.out = s.out
    else if s.regs.byteIdx.toNat + 1 = s.regs.length.toNat then
      t.regs = { s.regs with bitMask := 0 } ∧ t.pc = .post ∧ Appends s t [] ∧ t.out = s.out
    else
      t.regs = { s.regs with
        cur := s.mem.read next.toNat, byteIdx := s.regs.byteIdx + 1, bitMask := 0x80 } ∧
      t.pc = .lowWait ∧ Appends s t [.memRead next (s.mem.read next.toNat)] ∧
      t.out = { s.out with mem := some { addr := next, rdata := s.mem.read next.toNat } }) ∧
    t.irqDisable = s.irqDisable ∧ t.pin = s.pin ∧ t.sample = s.sample ∧ t.wdtElapsed = s.wdtElapsed ∧
    PrimitiveFrame s t

/-- POST: watchdog reset, then the release of the interrupts-disabled scope, in that order, back to IDLE. No register
and no pin changes (R108). -/
def Obligations.EpilogueReleases : Prop :=
  ∀ s : State, (s.pc = .post → s.inp.rst = false → step s = exec .post s) ∧
    ∃ t, exec .post s = .next t ∧
    t.irqDisable = false ∧ t.pc = .idle ∧ Appends s t [.wdtReset, .irqUnlock] ∧
    t.out = { wdtReset := true, gpio := none, mem := none } ∧ t.regs = s.regs ∧ t.pin = s.pin ∧
    t.sample = s.sample ∧ t.draws = s.draws ∧ CycleFrame s t

/-- RESET, and a step at `pc` code 5, 6 or 7, which behaves as RESET (R93, R210): IDLE, IRQ_DISABLE 0, no event, no
strobe, no pin written. Nothing is said of the working registers, which are unspecified. That the pins' modes stay is
the model's choice (log entry 28). -/
def Obligations.ResetGoesIdle : Prop :=
  ∀ (s : State) (i : Instr),
    i = .reset ∨ i = .unreachablePc5 ∨ i = .unreachablePc6 ∨ i = .unreachablePc7 → ∃ t, exec i s = .next t ∧
      t.pc = .idle ∧ t.irqDisable = false ∧ Appends s t [] ∧ t.out = Outputs.quiet ∧ t.pin = s.pin ∧
      t.sample = s.sample ∧ t.draws.startInits = s.draws.startInits ∧ t.draws.allocs = s.draws.allocs ∧
      CycleFrame s t

/-- RST wins over everything: whatever the phase and the command ports hold, the step is RESET, and a command
presented with it is lost (R194, R210). That the pins' modes stay is the model's choice (log entry 28). -/
def Obligations.ResetHasPriority : Prop :=
  ∀ s : State, s.inp.rst = true →
    step s = exec .reset s ∧
    ∀ pm b l, ∃ t, exec (.transmit pm b l) s = .next t ∧ t.pc = .idle ∧ t.irqDisable = false ∧ Appends s t [] ∧
      t.pin = s.pin ∧ CycleFrame (driveCommand true pm b l s) t

/-! ### The command words (R86, R100, R109) -/

/-- TRANSMIT presented to an idle engine out of reset is accepted in that step, for every operand value (R91, R100). -/
def Obligations.TransmitIsAcceptedWhenIdle : Prop :=
  ∀ (s : State) (pm : PinMask) (b : Addr) (l : Len), s.pc = .idle → s.inp.rst = false →
    ∃ t, exec (.transmit pm b l) s = .next t ∧
      t.regs = { s.regs with
        pinMask := pm, base := b, length := l,
        t0h := (derivedTiming s).t0h, t1h := (derivedTiming s).t1h, ttot := (derivedTiming s).ttot } ∧
      t.irqDisable = true ∧ t.pc = .pre ∧ Appends s t [.irqLock] ∧ t.out = Outputs.quiet ∧
      t.pin = s.pin ∧ t.sample = s.sample ∧ t.draws = s.draws ∧ CycleFrame (driveCommand true pm b l s) t

/-- While the engine is busy the command ports are not read: a command word in such a step changes nothing of the
step but the values on the four command ports, and is not queued: the strobe of the next step, and RST, CPU_FREQ and
the interrupt requests of it, are what they would have been without the word (R109). -/
def Obligations.CommandIgnoredWhileBusy : Prop :=
  ∀ (s : State) (i : Instr), s.pc ≠ .idle → (∃ pm b l, i = .transmit pm b l) ∨ i = .nopCmd →
    ∃ t u, exec i s = .next t ∧ exec (nextMicroOp s) s = .next u ∧ { t with inp := u.inp } = u ∧
      t.inp.start = u.inp.start ∧ t.inp.rst = u.inp.rst ∧ t.inp.cpuFreq = u.inp.cpuFreq ∧
      t.inp.irqReq = u.inp.irqReq

/-! ### The primitives (R62, R140 to R149) -/

/-- IrqLock and IrqUnlock: the flag, the event, and nothing else (R140, R141). -/
def Obligations.InterruptScopePrimitives : Prop :=
  ∀ s : State,
    (∃ t, exec .irqLock s = .next t ∧ t.irqDisable = true ∧ Appends s t [.irqLock] ∧ t.regs = s.regs ∧
      t.pc = s.pc ∧ t.out = s.out ∧ t.pin = s.pin ∧ t.sample = s.sample ∧ t.wdtElapsed = s.wdtElapsed ∧
      PrimitiveFrame s t) ∧
    (∃ t, exec .irqUnlock s = .next t ∧ t.irqDisable = false ∧ Appends s t [.irqUnlock] ∧ t.regs = s.regs ∧
      t.pc = s.pc ∧ t.out = s.out ∧ t.pin = s.pin ∧ t.sample = s.sample ∧ t.wdtElapsed = s.wdtElapsed ∧
      PrimitiveFrame s t)

/-- GpioWrite(mask, level): each pin of the mask takes the level, every other keeps its own, and the event is
appended, for every mask, 0 among them (R143). With the rule's example. -/
def Obligations.GpioWriteDrivesMask : Prop :=
  (∀ (s : State) (mask : PinMask) (level : Bool), ∃ t, exec (.gpioWrite mask level) s = .next t ∧
    PinsDriven s t mask level ∧ Appends s t [.pinWrite mask level] ∧
    t.out = { s.out with gpio := some { mask := mask, level := level } } ∧ t.regs = s.regs ∧ t.pc = s.pc ∧
    t.irqDisable = s.irqDisable ∧ t.sample = s.sample ∧ t.wdtElapsed = s.wdtElapsed ∧ PrimitiveFrame s t) ∧
  (∀ s : State, s.pin = 0x0003 → ∃ t, exec (.gpioWrite 0x0010 true) s = .next t ∧ t.pin = 0x0013)

/-- WdtReset: the strobe, the event, the hidden countdown restarted, and nothing else (R146). -/
def Obligations.WatchdogResetStrobes : Prop :=
  ∀ s : State, ∃ t, exec .wdtReset s = .next t ∧
    t.out = { s.out with wdtReset := true } ∧ Appends s t [.wdtReset] ∧ t.wdtElapsed = 0 ∧ t.regs = s.regs ∧
    t.pc = s.pc ∧ t.irqDisable = s.irqDisable ∧ t.pin = s.pin ∧ t.sample = s.sample ∧ PrimitiveFrame s t

/-- WaitTick: the poll past WDT_THRESH resets the watchdog and clears W, any other is counted, without overflow
(R147, R29). -/
def Obligations.WaitTickCountsPolls : Prop :=
  ∀ s : State, s.params.wf → ∃ t, exec .waitTick s = .next t ∧
    (if s.params.wdtThresh < s.regs.w.toNat + 1 then
      t.regs = { s.regs with w := 0 } ∧ Appends s t [.wdtReset] ∧ t.out = { s.out with wdtReset := true } ∧
      t.wdtElapsed = 0
    else
      t.regs = { s.regs with w := s.regs.w + 1 } ∧ t.regs.w.toNat = s.regs.w.toNat + 1 ∧ Appends s t [] ∧
      t.out = s.out ∧ t.wdtElapsed = s.wdtElapsed) ∧
    t.regs.w.toNat ≤ s.params.wdtThresh ∧
    t.pc = s.pc ∧ t.irqDisable = s.irqDisable ∧ t.pin = s.pin ∧ t.sample = s.sample ∧ PrimitiveFrame s t

/-- CycleCount returns CCOUNT of this step, with no event and no effect on the counter (R149). -/
def Obligations.CycleCountSamples : Prop :=
  ∀ s : State, ∃ t, exec .cycleCount s = .next t ∧
    t.sample = s.ccount ∧ Appends s t [] ∧ t.regs = s.regs ∧ t.pc = s.pc ∧ t.irqDisable = s.irqDisable ∧
    t.out = s.out ∧ t.pin = s.pin ∧ t.wdtElapsed = s.wdtElapsed ∧ PrimitiveFrame s t

/-- MemRead(addr, 1): MEM_RD = 1, MEM_ADDR = addr, MEM_RDATA = Mem[addr] in the same step, and the event. It cannot
fail, at any address, and changes no memory (R62). -/
def Obligations.MemReadReturnsByte : Prop :=
  ∀ (s : State) (addr : Addr), ∃ t, exec (.memRead addr) s = .next t ∧
    memRdPort t = true ∧ memAddrPort t = addr ∧ memRdataPort t = s.mem.read addr.toNat ∧
    t.out = { s.out with mem := some { addr := addr, rdata := s.mem.read addr.toNat } } ∧
    Appends s t [.memRead addr (s.mem.read addr.toNat)] ∧ t.regs = s.regs ∧ t.pc = s.pc ∧
    t.irqDisable = s.irqDisable ∧ t.pin = s.pin ∧ t.sample = s.sample ∧ t.wdtElapsed = s.wdtElapsed ∧
    PrimitiveFrame s t

/-! ### The host's payload operations (R160 to R178) -/

/-- `initialize(bytes)`: a region of exactly `3 * (m div 3)` bytes with the first that many bytes of the input,
nothing outside it changed. Where the platform has no such region, the allocation-failure signal and a dead driver
(R165, R166). What the old buffer then holds the spec does not state, so nothing is said of it. The model's own: that an
answer outside the address space is a failure, and that the bytes of a released region stay (log entry 5, DEDUCED), and
that after a failure the bytes outside the old buffer and the record of its region stay (log entry 27, DESIGN
CHOICE). -/
def Obligations.InitializeReplacesBuffer : Prop :=
  ∀ (s : State) (bytes : List Byte), HostReady s → ∃ t, exec (.fbInitialize bytes) s = .next t ∧
    HostCallFrame s t ∧ t.draws.startInits = s.draws.startInits ∧
    (match allocDraw (3 * (bytes.length / 3)) s with
      | some a =>
        t.fb = { base := a, len := 3 * (bytes.length / 3), dead := false } ∧ t.ret = .nothing ∧
        (s.mem.wf = true → ∀ j, j < 3 * (bytes.length / 3) → bufAt t j = bytes.getD j 0) ∧
        (∀ x, OutsideRegion a (3 * (bytes.length / 3)) x → t.mem.read x = s.mem.read x)
      | none =>
        t.fb = { s.fb with dead := true } ∧ t.ret = .allocFailed ∧
        ∀ x, OutsideRegion s.fb.base s.fb.len x → t.mem.read x = s.mem.read x)

/-- `overwriteLed(index, r, g, b)`: green, red, blue at the LED's three bytes, nothing else, and a no-op out of range
(R167). -/
def Obligations.OverwriteLedStoresWireOrder : Prop :=
  ∀ (s : State) (index : Nat) (r g b : Byte), HostReady s → s.mem.wf = true →
    ∃ t, exec (.overwriteLed index r g b) s = .next t ∧ HostCallFrame s t ∧ t.fb = s.fb ∧ t.draws = s.draws ∧
      t.ret = .nothing ∧
      (if index * 3 + 3 > s.fb.len then ∀ x, t.mem.read x = s.mem.read x
      else
        bufAt t (index * 3) = g ∧ bufAt t (index * 3 + 1) = r ∧ bufAt t (index * 3 + 2) = b ∧
        ∀ x, OutsideRegion (fbAddr (index * 3) s) 3 x → t.mem.read x = s.mem.read x)

/-- `overwriteRange(startIndex, bytes)`: the fitting prefix, counted in bytes, copied verbatim, and the rest of
memory untouched (R168). -/
def Obligations.OverwriteRangeClips : Prop :=
  ∀ (s : State) (startIndex : Nat) (bytes : List Byte), HostReady s → s.mem.wf = true → FramebufferInv s →
    let off := startIndex * 3
    let n := min bytes.length (s.fb.len - off)
    ∃ t, exec (.overwriteRange startIndex bytes) s = .next t ∧ HostCallFrame s t ∧ t.fb = s.fb ∧
      t.draws = s.draws ∧ t.ret = .nothing ∧
      (∀ j, j < n → bufAt t (off + j) = bytes.getD j 0) ∧
      (∀ x, OutsideRegion (fbAddr off s) n x → t.mem.read x = s.mem.read x)

/-- `mergeLed(index, r, g, b)`: each channel OR-ed into its byte, nothing else, and a no-op out of range (R169). -/
def Obligations.MergeLedOrsChannels : Prop :=
  ∀ (s : State) (index : Nat) (r g b : Byte), HostReady s → s.mem.wf = true →
    ∃ t, exec (.mergeLed index r g b) s = .next t ∧ HostCallFrame s t ∧ t.fb = s.fb ∧ t.draws = s.draws ∧
      t.ret = .nothing ∧
      (if index * 3 + 3 > s.fb.len then ∀ x, t.mem.read x = s.mem.read x
      else
        bufAt t (index * 3) = bufAt s (index * 3) ||| g ∧
        bufAt t (index * 3 + 1) = bufAt s (index * 3 + 1) ||| r ∧
        bufAt t (index * 3 + 2) = bufAt s (index * 3 + 2) ||| b ∧
        ∀ x, OutsideRegion (fbAddr (index * 3) s) 3 x → t.mem.read x = s.mem.read x)

/-- `mergeRange(startIndex, bytes)`: the fitting prefix OR-ed in position by position (R170). -/
def Obligations.MergeRangeOrsPrefix : Prop :=
  ∀ (s : State) (startIndex : Nat) (bytes : List Byte), HostReady s → s.mem.wf = true → FramebufferInv s →
    let off := startIndex * 3
    let n := min bytes.length (s.fb.len - off)
    ∃ t, exec (.mergeRange startIndex bytes) s = .next t ∧ HostCallFrame s t ∧ t.fb = s.fb ∧
      t.draws = s.draws ∧ t.ret = .nothing ∧
      (∀ j, j < n → bufAt t (off + j) = bufAt s (off + j) ||| bytes.getD j 0) ∧
      (∀ x, OutsideRegion (fbAddr off s) n x → t.mem.read x = s.mem.read x)

/-- `readLed(index)`: (red, green, blue) of the LED, the empty result out of bounds, and no byte changed (R171). -/
def Obligations.ReadLedReturnsTriple : Prop :=
  ∀ (s : State) (index : Nat), HostReady s → ∃ t, exec (.readLed index) s = .next t ∧ HostCallFrame s t ∧
    t.fb = s.fb ∧ t.draws = s.draws ∧ (∀ x, t.mem.read x = s.mem.read x) ∧
    t.ret = (if index * 3 + 3 > s.fb.len then .empty
      else .led (bufAt s (index * 3 + 1)) (bufAt s (index * 3)) (bufAt s (index * 3 + 2)))

/-- `shiftRight(k)`: every byte moves `3k` positions toward the end, the vacated leading region is zero, the length
stays, and no byte outside the buffer changes (R172). -/
def Obligations.ShiftRightMovesBytes : Prop :=
  ∀ (s : State) (k : Nat), HostReady s → s.mem.wf = true → FramebufferInv s →
    ∃ t, exec (.shiftRight k) s = .next t ∧ HostCallFrame s t ∧ t.fb = s.fb ∧ t.draws = s.draws ∧
      t.ret = .nothing ∧
      (∀ j, j < s.fb.len → bufAt t j = if 3 * k ≤ j then bufAt s (j - 3 * k) else 0) ∧
      (∀ x, OutsideRegion (fbAddr 0 s) s.fb.len x → t.mem.read x = s.mem.read x)

/-- `shiftLeft(k)`: every byte moves `3k` positions toward the start, the vacated trailing region is zero (R173). -/
def Obligations.ShiftLeftMovesBytes : Prop :=
  ∀ (s : State) (k : Nat), HostReady s → s.mem.wf = true → FramebufferInv s →
    ∃ t, exec (.shiftLeft k) s = .next t ∧ HostCallFrame s t ∧ t.fb = s.fb ∧ t.draws = s.draws ∧
      t.ret = .nothing ∧
      (∀ j, j < s.fb.len → bufAt t j = if j + 3 * k < s.fb.len then bufAt s (j + 3 * k) else 0) ∧
      (∀ x, OutsideRegion (fbAddr 0 s) s.fb.len x → t.mem.read x = s.mem.read x)

/-- `toWireOrderInPlace(bytes)`: in each complete triple the first two bytes are swapped, the third and a trailing
partial triple stay, and nothing outside the caller's bytes changes (R176). It needs no live driver. -/
def Obligations.WireOrderSwapsTriples : Prop :=
  ∀ (s : State) (b : ByteSeq), s.pc = .idle → s.mem.wf = true → b.wf = true →
    ∃ t, exec (.toWireOrderInPlace b) s = .next t ∧ HostCallFrame s t ∧ t.fb = s.fb ∧ t.draws = s.draws ∧
      t.ret = .nothing ∧
      (∀ q, q < b.len / 3 → seqAt t b (3 * q) = seqAt s b (3 * q + 1) ∧
        seqAt t b (3 * q + 1) = seqAt s b (3 * q) ∧ seqAt t b (3 * q + 2) = seqAt s b (3 * q + 2)) ∧
      (∀ j, 3 * (b.len / 3) ≤ j → j < b.len → seqAt t b j = seqAt s b j) ∧
      (∀ x, OutsideRegion b.addr b.len x → t.mem.read x = s.mem.read x)

/-- `asWireOrder(bytes)` performs no transformation: no byte of memory changes (R177). -/
def Obligations.AsWireOrderTouchesNothing : Prop :=
  ∀ (s : State) (b : ByteSeq), s.pc = .idle → ∃ t, exec (.asWireOrder b) s = .next t ∧ HostCallFrame s t ∧
    t.fb = s.fb ∧ t.draws = s.draws ∧ t.ret = .nothing ∧ ∀ x, t.mem.read x = s.mem.read x

/-- `flush(pinMask)` is TRANSMIT of the framebuffer's region, and it changes no byte: accepted in that step out of
reset, and lost like any command where RST is 1 (R96, R111, R194). That the length fits LENGTH rests on
`FramebufferInv`, whose second half is the model's inference (log entry 5); without it LENGTH is the length modulo
`2^LW`. -/
def Obligations.FlushTransmitsFramebuffer : Prop :=
  ∀ (s : State) (pm : PinMask), HostReady s →
    ∃ t, exec (.flush pm) s = .next t ∧ exec (.transmit pm s.fb.base (BitVec.ofNat 32 s.fb.len)) s = .next t ∧
      t.fb = s.fb ∧ t.pin = s.pin ∧ (∀ x, t.mem.read x = s.mem.read x) ∧
      (s.inp.rst = false →
        t.pc = .pre ∧ t.irqDisable = true ∧ Appends s t [.irqLock] ∧
        t.regs.pinMask = pm ∧ t.regs.base = s.fb.base ∧ t.regs.length.toNat = s.fb.len % 2 ^ 32 ∧
        (FramebufferInv s → t.regs.length.toNat = s.fb.len)) ∧
      (s.inp.rst = true → t.pc = .idle ∧ t.irqDisable = false ∧ Appends s t [])

/-- `writeRgb` is `toWireOrderInPlace` then TRANSMIT, `writeGrb` is `asWireOrder` then TRANSMIT (R96), the command
accepted out of reset and lost where RST is 1 (R194). That the byte sequence is a region of payload memory is the
model's reading (log entry 21). -/
def Obligations.OneShotExpansions : Prop :=
  ∀ (s : State) (pm : PinMask) (b : ByteSeq) (n : Len), s.pc = .idle →
    (∃ u t, exec (.toWireOrderInPlace b) s = .next u ∧ exec (.transmit pm b.addr n) u = .next t ∧
      exec (.writeRgb pm b n) s = .next t ∧ t.fb = s.fb ∧ (s.inp.rst = false → t.pc = .pre) ∧
      (s.inp.rst = true → t.pc = .idle ∧ t.irqDisable = false ∧ Appends s t []) ∧
      ∀ x, t.mem.read x = u.mem.read x) ∧
    (∃ u t, exec (.asWireOrder b) s = .next u ∧ exec (.transmit pm b.addr n) u = .next t ∧
      exec (.writeGrb pm b n) s = .next t ∧ t.fb = s.fb ∧ (s.inp.rst = false → t.pc = .pre) ∧
      (s.inp.rst = true → t.pc = .idle ∧ t.irqDisable = false ∧ Appends s t []) ∧
      ∀ x, t.mem.read x = s.mem.read x)

/-- The host has no move while BUSY = 1, and after an allocation failure every framebuffer call and every flush is
refused (R106, R166, R192). The refusals' names are the model's (log entry 20). -/
def Obligations.HostRefusals : Prop :=
  (∀ (s : State) (i : Instr), s.pc ≠ .idle → i.format = .hostcall ∨ i.format = .pseudo →
    exec i s = .refused .hostBlocked) ∧
  (∀ (s : State) (i : Instr), s.pc = .idle → s.fb.dead = true → UsesFramebuffer i →
    exec i s = .refused .driverDead)

/-- "overwriteLed(i, r, g, b) followed by readLed(i) returns (r, g, b)" for every valid LED index (R171). -/
def Obligations.ReadAfterOverwriteLed : Prop :=
  ∀ (s : State) (i : Nat) (r g b : Byte), HostReady s → s.mem.wf = true → i * 3 + 3 ≤ s.fb.len →
    ∃ u t, exec (.overwriteLed i r g b) s = .next u ∧ exec (.readLed i) u = .next t ∧ t.ret = .led r g b

/-- `mergeLed` is idempotent: merging the same value twice is merging it once (R169). -/
def Obligations.MergeLedIdempotent : Prop :=
  ∀ (s : State) (i : Nat) (r g b : Byte), HostReady s → s.mem.wf = true →
    ∃ u t, exec (.mergeLed i r g b) s = .next u ∧ exec (.mergeLed i r g b) u = .next t ∧
      ∀ x, t.mem.read x = u.mem.read x

/-- The shift round trips of R174: right then left zeroes the trailing `min(k, len/3)` LEDs and restores every other,
left then right zeroes the leading ones. -/
def Obligations.ShiftRoundTrip : Prop :=
  ∀ (s : State) (k : Nat), HostReady s → s.mem.wf = true → FramebufferInv s →
    (∃ u t, exec (.shiftRight k) s = .next u ∧ exec (.shiftLeft k) u = .next t ∧
      ∀ j, j < s.fb.len →
        bufAt t j = if j / 3 < s.fb.len / 3 - min k (s.fb.len / 3) then bufAt s j else 0) ∧
    (∃ u t, exec (.shiftLeft k) s = .next u ∧ exec (.shiftRight k) u = .next t ∧
      ∀ j, j < s.fb.len → bufAt t j = if min k (s.fb.len / 3) ≤ j / 3 then bufAt s j else 0)

/-- The destructive reorder applied twice restores the caller's bytes (R176, R224). -/
def Obligations.WireOrderTwiceRestores : Prop :=
  ∀ (s : State) (b : ByteSeq), s.pc = .idle → s.mem.wf = true → b.wf = true →
    ∃ u t, exec (.toWireOrderInPlace b) s = .next u ∧ exec (.toWireOrderInPlace b) u = .next t ∧
      ∀ x, t.mem.read x = s.mem.read x

/-! ### The waveform (R80 to R82, R127 to R130) -/

/-- A wire symbol is its steps: from the step whose poll ends the low wait, with no reset scheduled, the machine's own
steps give exactly SYM0 where the selected bit is 0 and SYM1 where it is 1. The symbol ends at the next rising edge
or, after the last bit, in POST (R80 to R82, R85, R120). Where a symbol begins and ends is the model's reading (log
entry 22). -/
def Obligations.SymbolIsItsSteps : Prop :=
  ∀ s : State, s.pc = .lowWait → s.regs.ttot ≤ elapsed s → NoReset s →
    (dataBit s = false → ∃ n t, exec .sym0 s = .next t ∧ run n s = .next t ∧
      (t.pc = .post ∨ (t.pc = .lowWait ∧ t.regs.ttot ≤ elapsed t))) ∧
    (dataBit s = true → ∃ n t, exec .sym1 s = .next t ∧ run n s = .next t ∧
      (t.pc = .post ∨ (t.pc = .lowWait ∧ t.regs.ttot ≤ elapsed t)))

/-- A symbol answers a next state in every state and for every timing, and leaves memory, the framebuffer, the host's
moves, the pins outside PINMASK and the parameters alone (R80, R130). That RST in mid-symbol leaves the pins' modes is
the model's choice (log entry 28). -/
def Obligations.SymbolFrame : Prop :=
  ∀ (s : State) (i : Instr), i = .sym0 ∨ i = .sym1 → ∃ t, exec i s = .next t ∧
    (∀ x, t.mem.read x = s.mem.read x) ∧ t.fb = s.fb ∧ t.hostQueue = s.hostQueue ∧ t.params = s.params ∧
    t.pinOutput = s.pinOutput ∧ t.ret = s.ret ∧ (∃ l, t.history = s.history ++ l) ∧
    (∀ p, p < 16 → s.regs.pinMask.getLsbD p = false → t.pin.getLsbD p = s.pin.getLsbD p)

/-- The exact widths of R128: with high time `t`, the pins are high in exactly `max(t, 1)` states after the rising
step, and the next rising step, where the bit is not the last, comes `max(TTOT, hi + 1)` steps after it. A high time
of `2^CW - 1` is left out: there the poll after FALL sees the difference wrap to 0, so R121 and R128 differ (log
entry 19). -/
def Obligations.ExactPulseWidths : Prop :=
  ∀ s : State, s.pc = .lowWait → s.regs.ttot ≤ elapsed s → NoReset s →
    let t := if dataBit s then s.regs.t1h else s.regs.t0h
    let hi := max t.toNat 1
    let period := max s.regs.ttot.toNat (hi + 1)
    t.toNat < 2 ^ 32 - 1 →
    (∀ k, 1 ≤ k → k ≤ hi → ∃ u, run k s = .next u ∧ u.pc = .highWait ∧
      u.pin &&& s.regs.pinMask = s.regs.pinMask) ∧
    (∃ u, run (hi + 1) s = .next u ∧ (u.pc = .lowWait ∨ u.pc = .post) ∧ u.pin &&& s.regs.pinMask = 0 ∧
      (u.pc = .lowWait →
        (∀ k, hi + 1 ≤ k → k < period → ∃ v, run k s = .next v ∧ v.pc = .lowWait ∧
          elapsed v < v.regs.ttot ∧ v.pin &&& s.regs.pinMask = 0) ∧
        (∃ v, run period s = .next v ∧ v.pc = .lowWait ∧ v.regs.ttot ≤ elapsed v ∧
          v.pin &&& s.regs.pinMask = 0)))

/-- The first wait, and any low wait: from a LOW_WAIT state with elapsed count `e0` the wait is over after exactly
`max(0, TTOT - e0)` unsuccessful polls, for every draw, and the pins keep their level through it (R127). -/
def Obligations.LowWaitLength : Prop :=
  ∀ s : State, s.pc = .lowWait → NoReset s →
    let d := s.regs.ttot.toNat - (elapsed s).toNat
    (∀ k, k < d → ∃ u, run k s = .next u ∧ u.pc = .lowWait ∧ elapsed u < u.regs.ttot ∧ u.pin = s.pin) ∧
    (∃ v, run d s = .next v ∧ v.pc = .lowWait ∧ v.regs.ttot ≤ elapsed v ∧ v.pin = s.pin)

/-- The duration of R107: with well-formed timing, ACCEPT to POST inclusive takes
`4 + d0 + (8L-1) * TTOT + h(8L-1)` steps, the engine busy in every state between, and then it is idle. -/
def Obligations.TransmissionDuration : Prop :=
  ∀ s : State, s.pc = .idle → s.inp.start = true → s.inp.lengthIn ≠ 0 → NoReset s →
    let d := derivedTiming s
    1 ≤ d.t0h → d.t0h < d.t1h → d.t1h < d.ttot →
    let len := s.inp.lengthIn.toNat
    let e0 := (s.ccount + 2 - startInitDraw s).toNat
    let last := s.mem.read (s.inp.baseIn + s.inp.lengthIn - 1).toNat
    let h := if last.getLsbD 0 then d.t1h.toNat else d.t0h.toNat
    let n := 4 + (d.ttot.toNat - e0) + (8 * len - 1) * d.ttot.toNat + h
    (∀ k, 0 < k → k < n → ∃ u, run k s = .next u ∧ u.pc ≠ .idle) ∧
    (∃ t, run n s = .next t ∧ t.pc = .idle ∧ t.irqDisable = false ∧ t.pin &&& s.inp.pinMaskIn = 0)

/-- Every transmission reaches its end, whatever the timing: from every busy state that meets the invariants, with no
reset scheduled, some number of steps leads to IDLE, with the events appended and, where a payload was sent, the pins
of PINMASK low (R110, R129, R130). -/
def Obligations.EveryTransmissionEnds : Prop :=
  ∀ s : State, MachineInv s → NoReset s → s.pc ≠ .idle →
    ∃ n t, run n s = .next t ∧ t.pc = .idle ∧ t.irqDisable = false ∧ (∃ l, t.history = s.history ++ l) ∧
      (s.regs.length = 0 ∨ t.pin &&& s.regs.pinMask = 0)

/-! ### Invariants and whole-machine rules -/

/-- The invariants of the reachable states (R25, R38, R162) hold right after reset, and its parameters, which are the
model's choice (log entry 3), are in range. The values at reset that the spec leaves open are the model's (log entries
1 and 2), and so are the canonical form of memory and the framebuffer's place in the address space (log entry 5). -/
def Obligations.InvariantAtReset : Prop := MachineInv State.reset ∧ State.reset.params.wf

/-- Every step, of the engine or of the host, keeps the invariants (R25, R38, R162): the phase is legal, IRQ_DISABLE
is 1 exactly when busy, BITMASK is one-hot, BYTEIDX below LENGTH, CUR the byte of its address, W at most WDT_THRESH,
the pins of PINMASK high in HIGH_WAIT (R38 (c)), low in LOW_WAIT past the first bit (the first half of R38 (b)) and
low in POST after a payload (R130), the buffer length a multiple of 3, and memory canonical. The second half of R38 (b), that
the pins hold their pre-transmission level up to the first falling step, is no part of it: AcceptLatchesCommand,
PrologueFetchesFirstByte and LowWaitLength say that no step before the first RISE changes a pin. The model's own: that
the framebuffer's region lies inside the address space (log entry 5, DEDUCED, unsafe of an allocator that lets it wrap),
and the canonical form, which is how the model represents memory. -/
def Obligations.StepKeepsInvariant : Prop := ∀ s t : State, MachineInv s → step s = .next t → MachineInv t

/-- Every operation, whichever state it starts in, keeps memory's canonical form, the framebuffer's invariant and the
parameters. Of the framebuffer's invariant R162 (a) gives the length's half; that the region lies inside the address
space is the model's inference (log entry 5, DEDUCED, unsafe of an allocator that lets it wrap). The canonical form is
the model's representation of the one space of R60. -/
def Obligations.OperationsKeepMemoryForm : Prop :=
  ∀ (i : Instr) (s t : State), exec i s = .next t → s.mem.wf = true → FramebufferInv s →
    t.mem.wf = true ∧ FramebufferInv t ∧ t.params = s.params

/-- The only legal transitions of `pc`: the ten of R23, and any phase to IDLE on RST. -/
def Obligations.LegalTransitions : Prop :=
  ∀ s t : State, Phase.legal s.pc → step s = .next t →
    (s.inp.rst = true ∧ t.pc = .idle) ∨
    (s.pc, t.pc) ∈ [(Phase.idle, Phase.idle), (.idle, .pre), (.pre, .lowWait), (.pre, .post), (.lowWait, .lowWait),
      (.lowWait, .highWait), (.highWait, .highWait), (.highWait, .lowWait), (.highWait, .post), (.post, .idle)]

/-- The engine never writes a pin outside PINMASK, and in a step of a busy engine no agent does (R130, R145). -/
def Obligations.PinsOutsideMaskUntouched : Prop :=
  ∀ s t : State, s.pc ≠ .idle → step s = .next t →
    (∀ p, p < 16 → s.regs.pinMask.getLsbD p = false → t.pin.getLsbD p = s.pin.getLsbD p) ∧
    (∀ x, t.mem.read x = s.mem.read x)

/-- A model gives an interrupt no move while IRQ_DISABLE = 1 (R35, R193): no pending request goes away in such a step,
and in a CLK cycle the arriving requests join the pending ones where IRQ_PENDING_POLICY keeps them and are lost where it
drops them (D21). R35 says only that none is taken and leaves open whether requests are kept or lost: that the pending
ones stay, and what the policy does with the arriving ones, is the model's choice (log entry 8, DESIGN CHOICE). -/
def Obligations.MaskedInterruptsWait : Prop :=
  ∀ s t : State, s.irqDisable = true → step s = .next t →
    (∀ r ∈ s.irqPending, r ∈ t.irqPending) ∧
    (s.hostQueue = [] ∨ s.pc ≠ .idle ∨ s.inp.rst = true ∨ s.inp.start = true →
      (s.params.irqPendingKept = true → ∀ r, r ∈ t.irqPending ↔ r ∈ s.irqPending ∨ r ∈ s.inp.irqReq) ∧
      (s.params.irqPendingKept = false → t.irqPending = s.irqPending))

/-- The history only grows, by events tagged with the step that appends them (R11). A step in which RST is 1 appends
none (R210). -/
def Obligations.HistoryGrowsByTaggedEvents : Prop :=
  ∀ s t : State, step s = .next t →
    ∃ l : List EventKind, Appends s t l ∧ l.length ≤ 2 ∧ (s.inp.rst = true → l = [])

/-- No state across calls: two engines that differ only in their working registers are equal two steps after they
accept the same command with a payload, and after an empty one differ at most in CUR and BITMASK (R37). -/
def Obligations.NoStateAcrossCalls : Prop :=
  ∀ (s : State) (r : Regs), s.pc = .idle → s.inp.start = true → NoReset s →
    ∃ t u, run 2 s = .next t ∧ run 2 { s with regs := r } = .next u ∧
      (s.inp.lengthIn ≠ 0 → t = u) ∧
      (s.inp.lengthIn = 0 →
        t = { u with regs := { u.regs with cur := t.regs.cur, bitMask := t.regs.bitMask } })

/-- In a wait the polls counted in W never exceed the cycles elapsed since the rising step, and every step keeps
this. -/
def Obligations.PollsStayWithinElapsed : Prop :=
  ∀ s t : State, PollsWithinElapsed s → step s = .next t → PollsWithinElapsed t

/-- The in-wait watchdog reset is silent with well-formed timing and WDT_THRESH at least TTOT: no step of a wait resets
the watchdog (R148). The premise on W is kept by every step (PollsStayWithinElapsed). -/
def Obligations.InWaitResetSilent : Prop :=
  ∀ s t : State, Waiting s → PollsWithinElapsed s → WellFormedTiming s.regs →
    s.regs.ttot.toNat ≤ s.params.wdtThresh → s.inp.rst = false → step s = .next t →
    t.out.wdtReset = false ∧ ∃ l : List EventKind, Appends s t l ∧ EventKind.wdtReset ∉ l
end

