-- ==== Sys2Proof/Laws/Decode.lean ====
section
/-! SUPPORT. The bits of a command word (R86), field by field. -/

namespace Sys2Proof

/-- Bits 31..0 are LENGTH, 63..32 BASE, 79..64 PINMASK and bit 80 OP. -/
theorem getLsbD_commandWord (op : Bool) (pm : PinMask) (b : Addr) (l : Len) (i : Nat) :
    (commandWord op pm b l).getLsbD i =
      if i < 32 then l.getLsbD i else if i < 64 then b.getLsbD (i - 32)
      else if i < 80 then pm.getLsbD (i - 64) else (decide (i = 80) && op) := by
  have h : (commandWord op pm b l).getLsbD i = _ :=
    BitVec.getLsbD_append (x := BitVec.ofBool op ++ pm ++ b) (y := l) (i := i)
  rw [h, BitVec.getLsbD_append, BitVec.getLsbD_append, BitVec.getLsbD_ofBool]
  by_cases h32 : i < 32
  · simp [h32]
  · by_cases h64 : i < 64
    · have : i - 32 < 32 := by omega
      simp [h32, h64, this]
    · have h' : ¬ i - 32 < 32 := by omega
      by_cases h80 : i < 80
      · have : i - 64 < 16 := by omega
        rw [if_neg h32, if_neg h32, if_neg h', if_neg h64, if_pos h80, show i - 32 - 32 = i - 64 by omega,
          if_pos this]
      · have h16 : ¬ i - 32 - 32 < 16 := by omega
        by_cases he : i = 80
        · subst he; simp
        · simp [*]; omega

end Sys2Proof
end

