-- ==== Sys2Proof/Laws/Memory.lean ====
section
/-! SUPPORT. The laws of payload memory: a read after a write, what a write leaves alone, and that every operation
keeps the canonical form. -/

namespace Sys2Proof.Machine

/-- A write changes no other address. -/
@[simp] theorem Memory.read_write_other (m : Memory) {a c : Nat} (v : Byte) (h : c ≠ a) :
    (m.write a v).read c = m.read c := by
  induction m with
  | nil => unfold Memory.write; split <;> simp [Memory.read, h]
  | cons cell rest ih =>
    obtain ⟨b, w⟩ := cell
    unfold Memory.write
    split
    · split <;> simp [Memory.read, h]
    · split
      · next h₂ => subst h₂; split <;> simp [Memory.read, h]
      · simp [Memory.read, ih]

/-- Below the first address of a canonical memory nothing is listed. -/
theorem Memory.read_below (m : Memory) {lo a : Nat} (hm : m.wfFrom lo = true) (h : a < lo) :
    m.read a = Memory.unwritten := by
  induction m generalizing lo with
  | nil => rfl
  | cons cell rest ih =>
    obtain ⟨b, w⟩ := cell
    simp only [Memory.wfFrom, Bool.and_eq_true, decide_eq_true_eq] at hm
    have hne : a ≠ b := by omega
    simp [Memory.read, hne, ih hm.2 (by omega)]

/-- A smaller lower bound does no harm. -/
theorem Memory.wfFrom_mono (m : Memory) {lo lo' : Nat} (hm : m.wfFrom lo = true) (h : lo' ≤ lo) :
    m.wfFrom lo' = true := by
  cases m with
  | nil => rfl
  | cons cell rest =>
    obtain ⟨b, w⟩ := cell
    simp only [Memory.wfFrom, Bool.and_eq_true, decide_eq_true_eq] at hm ⊢
    exact ⟨⟨⟨by omega, hm.1.1.2⟩, hm.1.2⟩, hm.2⟩

/-- A read after a write to the same address gives the byte written. -/
theorem Memory.read_write_same (m : Memory) {lo : Nat} (a : Nat) (v : Byte) (hm : m.wfFrom lo = true) :
    (m.write a v).read a = v := by
  induction m generalizing lo with
  | nil => unfold Memory.write; split <;> simp_all [Memory.read]
  | cons cell rest ih =>
    obtain ⟨b, w⟩ := cell
    have hm' := hm
    simp only [Memory.wfFrom, Bool.and_eq_true, decide_eq_true_eq] at hm
    unfold Memory.write
    split
    · next hlt =>
      split
      · next hv =>
        have hne : a ≠ b := by omega
        simp [Memory.read, hne, Memory.read_below rest hm.2 (by omega : a < b + 1), hv]
      · simp [Memory.read]
    · split
      · next heq =>
        split
        · next hv => rw [hv]; exact Memory.read_below rest hm.2 (by omega)
        · simp [Memory.read]
      · next hne => simp [Memory.read, hne, ih hm.2]

/-- A write at an address of the space keeps the canonical form. -/
theorem Memory.wfFrom_write (m : Memory) {lo a : Nat} (v : Byte) (hm : m.wfFrom lo = true) (hlo : lo ≤ a)
    (ha : a < 2 ^ 32) : (m.write a v).wfFrom lo = true := by
  induction m generalizing lo with
  | nil => unfold Memory.write; split <;> simp_all [Memory.wfFrom]
  | cons cell rest ih =>
    obtain ⟨b, w⟩ := cell
    have hm' := hm
    simp only [Memory.wfFrom, Bool.and_eq_true, decide_eq_true_eq] at hm
    unfold Memory.write
    split
    · split
      · exact hm'
      · next hv =>
        simp only [Memory.wfFrom, Bool.and_eq_true, decide_eq_true_eq]
        exact ⟨⟨⟨hlo, ha⟩, hv⟩, ⟨⟨by omega, hm.1.1.2⟩, hm.1.2⟩, hm.2⟩
    · split
      · next heq =>
        subst heq
        split
        · exact Memory.wfFrom_mono rest hm.2 (by omega)
        · next hv =>
          simp only [Memory.wfFrom, Bool.and_eq_true, decide_eq_true_eq]
          exact ⟨⟨⟨hlo, ha⟩, hv⟩, hm.2⟩
      · simp only [Memory.wfFrom, Bool.and_eq_true, decide_eq_true_eq]
        exact ⟨hm.1, ih hm.2 (by omega)⟩

/-- A write through an address word keeps the canonical form. -/
theorem Memory.wf_write (m : Memory) (a : Addr) (v : Byte) (hm : m.wf = true) : (m.write a.toNat v).wf = true :=
  Memory.wfFrom_write m v hm (Nat.zero_le _) a.isLt

/-- Writing bytes keeps the canonical form. -/
theorem Memory.wf_writeBytes (bs : List Byte) (m : Memory) (a : Addr) (hm : m.wf = true) :
    (m.writeBytes a bs).wf = true := by
  induction bs generalizing m a with
  | nil => exact hm
  | cons b bs ih => exact ih _ _ (Memory.wf_write m a b hm)

/-- The step from one payload address to the next, `j` bytes on. -/
theorem addr_succ_add (a : Addr) (j : Nat) : a + 1 + BitVec.ofNat 32 j = a + BitVec.ofNat 32 (j + 1) := by
  apply BitVec.eq_of_toNat_eq
  simp [BitVec.toNat_add, BitVec.toNat_ofNat]
  omega

/-- Writing bytes changes no address outside their region. -/
theorem Memory.read_writeBytes_outside (bs : List Byte) (m : Memory) (a : Addr) (x : Nat)
    (h : ∀ j, j < bs.length → x ≠ (a + BitVec.ofNat 32 j).toNat) : (m.writeBytes a bs).read x = m.read x := by
  induction bs generalizing m a with
  | nil => rfl
  | cons b bs ih =>
    have h0 : x ≠ a.toNat := by simpa using h 0 (by simp)
    have := ih (m.write a.toNat b) (a + 1) (fun j hj => by
      rw [addr_succ_add]; exact h (j + 1) (by simpa using hj))
    simpa [Memory.writeBytes, Memory.read_write_other _ _ h0] using this

/-- Reading byte `j` of the bytes just written, where they do not go round the address space. -/
theorem Memory.read_writeBytes_inside (bs : List Byte) (m : Memory) (a : Addr) (j : Nat) (hm : m.wf = true)
    (hlen : bs.length ≤ 2 ^ 32) (hj : j < bs.length) :
    (m.writeBytes a bs).read (a + BitVec.ofNat 32 j).toNat = bs[j] := by
  induction bs generalizing m a j with
  | nil => simp at hj
  | cons b bs ih =>
    cases j with
    | zero =>
      have hout : ∀ k, k < bs.length → a.toNat ≠ (a + 1 + BitVec.ofNat 32 k).toNat := by
        intro k hk he
        have hk' : k + 1 < 2 ^ 32 := by simp at hlen; omega
        have := a.isLt
        simp [BitVec.toNat_add, BitVec.toNat_ofNat] at he
        omega
      have h0 : a + BitVec.ofNat 32 0 = a := by simp
      rw [h0]
      exact (Memory.read_writeBytes_outside bs (m.write a.toNat b) (a + 1) a.toNat hout).trans
        (Memory.read_write_same m a.toNat b hm)
    | succ k =>
      have := ih (m.write a.toNat b) (a + 1) k (Memory.wf_write m a b hm) (by simp at hlen; omega)
        (by simpa using hj)
      rw [addr_succ_add] at this
      simpa [Memory.writeBytes] using this

@[simp] theorem Memory.length_readBytes (m : Memory) (n : Nat) (a : Addr) : (m.readBytes a n).length = n := by
  induction n generalizing a with
  | zero => rfl
  | succ n ih => simp [Memory.readBytes, ih]

/-- Byte `j` of the bytes read from an address on. -/
theorem Memory.getElem_readBytes (m : Memory) (n : Nat) (a : Addr) (j : Nat) (hj : j < (m.readBytes a n).length) :
    (m.readBytes a n)[j] = m.read (a + BitVec.ofNat 32 j).toNat := by
  induction n generalizing a j with
  | zero => simp at hj
  | succ n ih =>
    cases j with
    | zero => simp [Memory.readBytes]
    | succ k =>
      have := ih (a + 1) k (by simpa [Memory.readBytes] using hj)
      rw [addr_succ_add] at this
      simpa [Memory.readBytes] using this

end Sys2Proof.Machine
end

