-- ==== Sys2Proof/Laws/State.lean ====
section
/-! SUPPORT. One lemma per field of State per named update of Machine/Flags.lean and Machine/Ops.lean, true by rfl, so
that no proof unfolds a record update. WaitTick, whose update is a choice, has its lemmas in Laws/Ops.lean. -/

namespace Sys2Proof.Machine

/-! #### setIrqDisable -/

@[simp] theorem setIrqDisable_regs (v : Bool) (s : State) : (setIrqDisable v s).regs = s.regs := rfl
@[simp] theorem setIrqDisable_pc (v : Bool) (s : State) : (setIrqDisable v s).pc = s.pc := rfl
@[simp] theorem setIrqDisable_irqDisable (v : Bool) (s : State) : (setIrqDisable v s).irqDisable = v := rfl
@[simp] theorem setIrqDisable_inp (v : Bool) (s : State) : (setIrqDisable v s).inp = s.inp := rfl
@[simp] theorem setIrqDisable_upcoming (v : Bool) (s : State) : (setIrqDisable v s).upcoming = s.upcoming := rfl
@[simp] theorem setIrqDisable_out (v : Bool) (s : State) : (setIrqDisable v s).out = s.out := rfl
@[simp] theorem setIrqDisable_pin (v : Bool) (s : State) : (setIrqDisable v s).pin = s.pin := rfl
@[simp] theorem setIrqDisable_pinOutput (v : Bool) (s : State) : (setIrqDisable v s).pinOutput = s.pinOutput := rfl
@[simp] theorem setIrqDisable_ccount (v : Bool) (s : State) : (setIrqDisable v s).ccount = s.ccount := rfl
@[simp] theorem setIrqDisable_sample (v : Bool) (s : State) : (setIrqDisable v s).sample = s.sample := rfl
@[simp] theorem setIrqDisable_stepNo (v : Bool) (s : State) : (setIrqDisable v s).stepNo = s.stepNo := rfl
@[simp] theorem setIrqDisable_wdtElapsed (v : Bool) (s : State) : (setIrqDisable v s).wdtElapsed = s.wdtElapsed := rfl
@[simp] theorem setIrqDisable_irqPending (v : Bool) (s : State) : (setIrqDisable v s).irqPending = s.irqPending := rfl
@[simp] theorem setIrqDisable_mem (v : Bool) (s : State) : (setIrqDisable v s).mem = s.mem := rfl
@[simp] theorem setIrqDisable_fb (v : Bool) (s : State) : (setIrqDisable v s).fb = s.fb := rfl
@[simp] theorem setIrqDisable_ret (v : Bool) (s : State) : (setIrqDisable v s).ret = s.ret := rfl
@[simp] theorem setIrqDisable_hostQueue (v : Bool) (s : State) : (setIrqDisable v s).hostQueue = s.hostQueue := rfl
@[simp] theorem setIrqDisable_draws (v : Bool) (s : State) : (setIrqDisable v s).draws = s.draws := rfl
@[simp] theorem setIrqDisable_params (v : Bool) (s : State) : (setIrqDisable v s).params = s.params := rfl
@[simp] theorem setIrqDisable_history (v : Bool) (s : State) : (setIrqDisable v s).history = s.history := rfl

/-! #### record -/

@[simp] theorem record_regs (k : EventKind) (s : State) : (record k s).regs = s.regs := rfl
@[simp] theorem record_pc (k : EventKind) (s : State) : (record k s).pc = s.pc := rfl
@[simp] theorem record_irqDisable (k : EventKind) (s : State) : (record k s).irqDisable = s.irqDisable := rfl
@[simp] theorem record_inp (k : EventKind) (s : State) : (record k s).inp = s.inp := rfl
@[simp] theorem record_upcoming (k : EventKind) (s : State) : (record k s).upcoming = s.upcoming := rfl
@[simp] theorem record_out (k : EventKind) (s : State) : (record k s).out = s.out := rfl
@[simp] theorem record_pin (k : EventKind) (s : State) : (record k s).pin = s.pin := rfl
@[simp] theorem record_pinOutput (k : EventKind) (s : State) : (record k s).pinOutput = s.pinOutput := rfl
@[simp] theorem record_ccount (k : EventKind) (s : State) : (record k s).ccount = s.ccount := rfl
@[simp] theorem record_sample (k : EventKind) (s : State) : (record k s).sample = s.sample := rfl
@[simp] theorem record_stepNo (k : EventKind) (s : State) : (record k s).stepNo = s.stepNo := rfl
@[simp] theorem record_wdtElapsed (k : EventKind) (s : State) : (record k s).wdtElapsed = s.wdtElapsed := rfl
@[simp] theorem record_irqPending (k : EventKind) (s : State) : (record k s).irqPending = s.irqPending := rfl
@[simp] theorem record_mem (k : EventKind) (s : State) : (record k s).mem = s.mem := rfl
@[simp] theorem record_fb (k : EventKind) (s : State) : (record k s).fb = s.fb := rfl
@[simp] theorem record_ret (k : EventKind) (s : State) : (record k s).ret = s.ret := rfl
@[simp] theorem record_hostQueue (k : EventKind) (s : State) : (record k s).hostQueue = s.hostQueue := rfl
@[simp] theorem record_draws (k : EventKind) (s : State) : (record k s).draws = s.draws := rfl
@[simp] theorem record_params (k : EventKind) (s : State) : (record k s).params = s.params := rfl
@[simp] theorem record_history (k : EventKind) (s : State) :
    (record k s).history = s.history ++ [{ step := s.stepNo, kind := k }] := rfl

/-! #### advanceStartDraw -/

@[simp] theorem advanceStartDraw_regs (s : State) : (advanceStartDraw s).regs = s.regs := rfl
@[simp] theorem advanceStartDraw_pc (s : State) : (advanceStartDraw s).pc = s.pc := rfl
@[simp] theorem advanceStartDraw_irqDisable (s : State) : (advanceStartDraw s).irqDisable = s.irqDisable := rfl
@[simp] theorem advanceStartDraw_inp (s : State) : (advanceStartDraw s).inp = s.inp := rfl
@[simp] theorem advanceStartDraw_upcoming (s : State) : (advanceStartDraw s).upcoming = s.upcoming := rfl
@[simp] theorem advanceStartDraw_out (s : State) : (advanceStartDraw s).out = s.out := rfl
@[simp] theorem advanceStartDraw_pin (s : State) : (advanceStartDraw s).pin = s.pin := rfl
@[simp] theorem advanceStartDraw_pinOutput (s : State) : (advanceStartDraw s).pinOutput = s.pinOutput := rfl
@[simp] theorem advanceStartDraw_ccount (s : State) : (advanceStartDraw s).ccount = s.ccount := rfl
@[simp] theorem advanceStartDraw_sample (s : State) : (advanceStartDraw s).sample = s.sample := rfl
@[simp] theorem advanceStartDraw_stepNo (s : State) : (advanceStartDraw s).stepNo = s.stepNo := rfl
@[simp] theorem advanceStartDraw_wdtElapsed (s : State) : (advanceStartDraw s).wdtElapsed = s.wdtElapsed := rfl
@[simp] theorem advanceStartDraw_irqPending (s : State) : (advanceStartDraw s).irqPending = s.irqPending := rfl
@[simp] theorem advanceStartDraw_mem (s : State) : (advanceStartDraw s).mem = s.mem := rfl
@[simp] theorem advanceStartDraw_fb (s : State) : (advanceStartDraw s).fb = s.fb := rfl
@[simp] theorem advanceStartDraw_ret (s : State) : (advanceStartDraw s).ret = s.ret := rfl
@[simp] theorem advanceStartDraw_hostQueue (s : State) : (advanceStartDraw s).hostQueue = s.hostQueue := rfl
@[simp] theorem advanceStartDraw_draws (s : State) :
    (advanceStartDraw s).draws = { s.draws with startInits := s.draws.startInits.tail, count := s.draws.count + 1 } := rfl
@[simp] theorem advanceStartDraw_params (s : State) : (advanceStartDraw s).params = s.params := rfl
@[simp] theorem advanceStartDraw_history (s : State) : (advanceStartDraw s).history = s.history := rfl

/-! #### advanceAllocDraw -/

@[simp] theorem advanceAllocDraw_regs (s : State) : (advanceAllocDraw s).regs = s.regs := rfl
@[simp] theorem advanceAllocDraw_pc (s : State) : (advanceAllocDraw s).pc = s.pc := rfl
@[simp] theorem advanceAllocDraw_irqDisable (s : State) : (advanceAllocDraw s).irqDisable = s.irqDisable := rfl
@[simp] theorem advanceAllocDraw_inp (s : State) : (advanceAllocDraw s).inp = s.inp := rfl
@[simp] theorem advanceAllocDraw_upcoming (s : State) : (advanceAllocDraw s).upcoming = s.upcoming := rfl
@[simp] theorem advanceAllocDraw_out (s : State) : (advanceAllocDraw s).out = s.out := rfl
@[simp] theorem advanceAllocDraw_pin (s : State) : (advanceAllocDraw s).pin = s.pin := rfl
@[simp] theorem advanceAllocDraw_pinOutput (s : State) : (advanceAllocDraw s).pinOutput = s.pinOutput := rfl
@[simp] theorem advanceAllocDraw_ccount (s : State) : (advanceAllocDraw s).ccount = s.ccount := rfl
@[simp] theorem advanceAllocDraw_sample (s : State) : (advanceAllocDraw s).sample = s.sample := rfl
@[simp] theorem advanceAllocDraw_stepNo (s : State) : (advanceAllocDraw s).stepNo = s.stepNo := rfl
@[simp] theorem advanceAllocDraw_wdtElapsed (s : State) : (advanceAllocDraw s).wdtElapsed = s.wdtElapsed := rfl
@[simp] theorem advanceAllocDraw_irqPending (s : State) : (advanceAllocDraw s).irqPending = s.irqPending := rfl
@[simp] theorem advanceAllocDraw_mem (s : State) : (advanceAllocDraw s).mem = s.mem := rfl
@[simp] theorem advanceAllocDraw_fb (s : State) : (advanceAllocDraw s).fb = s.fb := rfl
@[simp] theorem advanceAllocDraw_ret (s : State) : (advanceAllocDraw s).ret = s.ret := rfl
@[simp] theorem advanceAllocDraw_hostQueue (s : State) : (advanceAllocDraw s).hostQueue = s.hostQueue := rfl
@[simp] theorem advanceAllocDraw_draws (s : State) :
    (advanceAllocDraw s).draws = { s.draws with allocs := s.draws.allocs.tail, count := s.draws.count + 1 } := rfl
@[simp] theorem advanceAllocDraw_params (s : State) : (advanceAllocDraw s).params = s.params := rfl
@[simp] theorem advanceAllocDraw_history (s : State) : (advanceAllocDraw s).history = s.history := rfl

/-! #### irqLock -/

@[simp] theorem irqLock_regs (s : State) : (irqLock s).regs = s.regs := rfl
@[simp] theorem irqLock_pc (s : State) : (irqLock s).pc = s.pc := rfl
@[simp] theorem irqLock_irqDisable (s : State) : (irqLock s).irqDisable = true := rfl
@[simp] theorem irqLock_inp (s : State) : (irqLock s).inp = s.inp := rfl
@[simp] theorem irqLock_upcoming (s : State) : (irqLock s).upcoming = s.upcoming := rfl
@[simp] theorem irqLock_out (s : State) : (irqLock s).out = s.out := rfl
@[simp] theorem irqLock_pin (s : State) : (irqLock s).pin = s.pin := rfl
@[simp] theorem irqLock_pinOutput (s : State) : (irqLock s).pinOutput = s.pinOutput := rfl
@[simp] theorem irqLock_ccount (s : State) : (irqLock s).ccount = s.ccount := rfl
@[simp] theorem irqLock_sample (s : State) : (irqLock s).sample = s.sample := rfl
@[simp] theorem irqLock_stepNo (s : State) : (irqLock s).stepNo = s.stepNo := rfl
@[simp] theorem irqLock_wdtElapsed (s : State) : (irqLock s).wdtElapsed = s.wdtElapsed := rfl
@[simp] theorem irqLock_irqPending (s : State) : (irqLock s).irqPending = s.irqPending := rfl
@[simp] theorem irqLock_mem (s : State) : (irqLock s).mem = s.mem := rfl
@[simp] theorem irqLock_fb (s : State) : (irqLock s).fb = s.fb := rfl
@[simp] theorem irqLock_ret (s : State) : (irqLock s).ret = s.ret := rfl
@[simp] theorem irqLock_hostQueue (s : State) : (irqLock s).hostQueue = s.hostQueue := rfl
@[simp] theorem irqLock_draws (s : State) : (irqLock s).draws = s.draws := rfl
@[simp] theorem irqLock_params (s : State) : (irqLock s).params = s.params := rfl
@[simp] theorem irqLock_history (s : State) :
    (irqLock s).history = s.history ++ [{ step := s.stepNo, kind := .irqLock }] := rfl

/-! #### irqUnlock -/

@[simp] theorem irqUnlock_regs (s : State) : (irqUnlock s).regs = s.regs := rfl
@[simp] theorem irqUnlock_pc (s : State) : (irqUnlock s).pc = s.pc := rfl
@[simp] theorem irqUnlock_irqDisable (s : State) : (irqUnlock s).irqDisable = false := rfl
@[simp] theorem irqUnlock_inp (s : State) : (irqUnlock s).inp = s.inp := rfl
@[simp] theorem irqUnlock_upcoming (s : State) : (irqUnlock s).upcoming = s.upcoming := rfl
@[simp] theorem irqUnlock_out (s : State) : (irqUnlock s).out = s.out := rfl
@[simp] theorem irqUnlock_pin (s : State) : (irqUnlock s).pin = s.pin := rfl
@[simp] theorem irqUnlock_pinOutput (s : State) : (irqUnlock s).pinOutput = s.pinOutput := rfl
@[simp] theorem irqUnlock_ccount (s : State) : (irqUnlock s).ccount = s.ccount := rfl
@[simp] theorem irqUnlock_sample (s : State) : (irqUnlock s).sample = s.sample := rfl
@[simp] theorem irqUnlock_stepNo (s : State) : (irqUnlock s).stepNo = s.stepNo := rfl
@[simp] theorem irqUnlock_wdtElapsed (s : State) : (irqUnlock s).wdtElapsed = s.wdtElapsed := rfl
@[simp] theorem irqUnlock_irqPending (s : State) : (irqUnlock s).irqPending = s.irqPending := rfl
@[simp] theorem irqUnlock_mem (s : State) : (irqUnlock s).mem = s.mem := rfl
@[simp] theorem irqUnlock_fb (s : State) : (irqUnlock s).fb = s.fb := rfl
@[simp] theorem irqUnlock_ret (s : State) : (irqUnlock s).ret = s.ret := rfl
@[simp] theorem irqUnlock_hostQueue (s : State) : (irqUnlock s).hostQueue = s.hostQueue := rfl
@[simp] theorem irqUnlock_draws (s : State) : (irqUnlock s).draws = s.draws := rfl
@[simp] theorem irqUnlock_params (s : State) : (irqUnlock s).params = s.params := rfl
@[simp] theorem irqUnlock_history (s : State) :
    (irqUnlock s).history = s.history ++ [{ step := s.stepNo, kind := .irqUnlock }] := rfl

/-! #### gpioWrite -/

@[simp] theorem gpioWrite_regs (mask : PinMask) (level : Bool) (s : State) :
    (gpioWrite mask level s).regs = s.regs := rfl
@[simp] theorem gpioWrite_pc (mask : PinMask) (level : Bool) (s : State) : (gpioWrite mask level s).pc = s.pc := rfl
@[simp] theorem gpioWrite_irqDisable (mask : PinMask) (level : Bool) (s : State) :
    (gpioWrite mask level s).irqDisable = s.irqDisable := rfl
@[simp] theorem gpioWrite_inp (mask : PinMask) (level : Bool) (s : State) :
    (gpioWrite mask level s).inp = s.inp := rfl
@[simp] theorem gpioWrite_upcoming (mask : PinMask) (level : Bool) (s : State) :
    (gpioWrite mask level s).upcoming = s.upcoming := rfl
@[simp] theorem gpioWrite_out (mask : PinMask) (level : Bool) (s : State) :
    (gpioWrite mask level s).out = { s.out with gpio := some { mask := mask, level := level } } := rfl
@[simp] theorem gpioWrite_pin (mask : PinMask) (level : Bool) (s : State) :
    (gpioWrite mask level s).pin = drivePins s.pin mask level := rfl
@[simp] theorem gpioWrite_pinOutput (mask : PinMask) (level : Bool) (s : State) :
    (gpioWrite mask level s).pinOutput = s.pinOutput := rfl
@[simp] theorem gpioWrite_ccount (mask : PinMask) (level : Bool) (s : State) :
    (gpioWrite mask level s).ccount = s.ccount := rfl
@[simp] theorem gpioWrite_sample (mask : PinMask) (level : Bool) (s : State) :
    (gpioWrite mask level s).sample = s.sample := rfl
@[simp] theorem gpioWrite_stepNo (mask : PinMask) (level : Bool) (s : State) :
    (gpioWrite mask level s).stepNo = s.stepNo := rfl
@[simp] theorem gpioWrite_wdtElapsed (mask : PinMask) (level : Bool) (s : State) :
    (gpioWrite mask level s).wdtElapsed = s.wdtElapsed := rfl
@[simp] theorem gpioWrite_irqPending (mask : PinMask) (level : Bool) (s : State) :
    (gpioWrite mask level s).irqPending = s.irqPending := rfl
@[simp] theorem gpioWrite_mem (mask : PinMask) (level : Bool) (s : State) :
    (gpioWrite mask level s).mem = s.mem := rfl
@[simp] theorem gpioWrite_fb (mask : PinMask) (level : Bool) (s : State) : (gpioWrite mask level s).fb = s.fb := rfl
@[simp] theorem gpioWrite_ret (mask : PinMask) (level : Bool) (s : State) :
    (gpioWrite mask level s).ret = s.ret := rfl
@[simp] theorem gpioWrite_hostQueue (mask : PinMask) (level : Bool) (s : State) :
    (gpioWrite mask level s).hostQueue = s.hostQueue := rfl
@[simp] theorem gpioWrite_draws (mask : PinMask) (level : Bool) (s : State) :
    (gpioWrite mask level s).draws = s.draws := rfl
@[simp] theorem gpioWrite_params (mask : PinMask) (level : Bool) (s : State) :
    (gpioWrite mask level s).params = s.params := rfl
@[simp] theorem gpioWrite_history (mask : PinMask) (level : Bool) (s : State) :
    (gpioWrite mask level s).history = s.history ++ [{ step := s.stepNo, kind := .pinWrite mask level }] := rfl

/-! #### wdtReset -/

@[simp] theorem wdtReset_regs (s : State) : (wdtReset s).regs = s.regs := rfl
@[simp] theorem wdtReset_pc (s : State) : (wdtReset s).pc = s.pc := rfl
@[simp] theorem wdtReset_irqDisable (s : State) : (wdtReset s).irqDisable = s.irqDisable := rfl
@[simp] theorem wdtReset_inp (s : State) : (wdtReset s).inp = s.inp := rfl
@[simp] theorem wdtReset_upcoming (s : State) : (wdtReset s).upcoming = s.upcoming := rfl
@[simp] theorem wdtReset_out (s : State) : (wdtReset s).out = { s.out with wdtReset := true } := rfl
@[simp] theorem wdtReset_pin (s : State) : (wdtReset s).pin = s.pin := rfl
@[simp] theorem wdtReset_pinOutput (s : State) : (wdtReset s).pinOutput = s.pinOutput := rfl
@[simp] theorem wdtReset_ccount (s : State) : (wdtReset s).ccount = s.ccount := rfl
@[simp] theorem wdtReset_sample (s : State) : (wdtReset s).sample = s.sample := rfl
@[simp] theorem wdtReset_stepNo (s : State) : (wdtReset s).stepNo = s.stepNo := rfl
@[simp] theorem wdtReset_wdtElapsed (s : State) : (wdtReset s).wdtElapsed = 0 := rfl
@[simp] theorem wdtReset_irqPending (s : State) : (wdtReset s).irqPending = s.irqPending := rfl
@[simp] theorem wdtReset_mem (s : State) : (wdtReset s).mem = s.mem := rfl
@[simp] theorem wdtReset_fb (s : State) : (wdtReset s).fb = s.fb := rfl
@[simp] theorem wdtReset_ret (s : State) : (wdtReset s).ret = s.ret := rfl
@[simp] theorem wdtReset_hostQueue (s : State) : (wdtReset s).hostQueue = s.hostQueue := rfl
@[simp] theorem wdtReset_draws (s : State) : (wdtReset s).draws = s.draws := rfl
@[simp] theorem wdtReset_params (s : State) : (wdtReset s).params = s.params := rfl
@[simp] theorem wdtReset_history (s : State) :
    (wdtReset s).history = s.history ++ [{ step := s.stepNo, kind := .wdtReset }] := rfl

/-! #### cycleCount -/

@[simp] theorem cycleCount_regs (s : State) : (cycleCount s).regs = s.regs := rfl
@[simp] theorem cycleCount_pc (s : State) : (cycleCount s).pc = s.pc := rfl
@[simp] theorem cycleCount_irqDisable (s : State) : (cycleCount s).irqDisable = s.irqDisable := rfl
@[simp] theorem cycleCount_inp (s : State) : (cycleCount s).inp = s.inp := rfl
@[simp] theorem cycleCount_upcoming (s : State) : (cycleCount s).upcoming = s.upcoming := rfl
@[simp] theorem cycleCount_out (s : State) : (cycleCount s).out = s.out := rfl
@[simp] theorem cycleCount_pin (s : State) : (cycleCount s).pin = s.pin := rfl
@[simp] theorem cycleCount_pinOutput (s : State) : (cycleCount s).pinOutput = s.pinOutput := rfl
@[simp] theorem cycleCount_ccount (s : State) : (cycleCount s).ccount = s.ccount := rfl
@[simp] theorem cycleCount_sample (s : State) : (cycleCount s).sample = s.ccount := rfl
@[simp] theorem cycleCount_stepNo (s : State) : (cycleCount s).stepNo = s.stepNo := rfl
@[simp] theorem cycleCount_wdtElapsed (s : State) : (cycleCount s).wdtElapsed = s.wdtElapsed := rfl
@[simp] theorem cycleCount_irqPending (s : State) : (cycleCount s).irqPending = s.irqPending := rfl
@[simp] theorem cycleCount_mem (s : State) : (cycleCount s).mem = s.mem := rfl
@[simp] theorem cycleCount_fb (s : State) : (cycleCount s).fb = s.fb := rfl
@[simp] theorem cycleCount_ret (s : State) : (cycleCount s).ret = s.ret := rfl
@[simp] theorem cycleCount_hostQueue (s : State) : (cycleCount s).hostQueue = s.hostQueue := rfl
@[simp] theorem cycleCount_draws (s : State) : (cycleCount s).draws = s.draws := rfl
@[simp] theorem cycleCount_params (s : State) : (cycleCount s).params = s.params := rfl
@[simp] theorem cycleCount_history (s : State) : (cycleCount s).history = s.history := rfl

/-! #### memRead -/

@[simp] theorem memRead_regs (a : Addr) (s : State) : (memRead a s).regs = s.regs := rfl
@[simp] theorem memRead_pc (a : Addr) (s : State) : (memRead a s).pc = s.pc := rfl
@[simp] theorem memRead_irqDisable (a : Addr) (s : State) : (memRead a s).irqDisable = s.irqDisable := rfl
@[simp] theorem memRead_inp (a : Addr) (s : State) : (memRead a s).inp = s.inp := rfl
@[simp] theorem memRead_upcoming (a : Addr) (s : State) : (memRead a s).upcoming = s.upcoming := rfl
@[simp] theorem memRead_out (a : Addr) (s : State) :
    (memRead a s).out = { s.out with mem := some { addr := a, rdata := memValue a s } } := rfl
@[simp] theorem memRead_pin (a : Addr) (s : State) : (memRead a s).pin = s.pin := rfl
@[simp] theorem memRead_pinOutput (a : Addr) (s : State) : (memRead a s).pinOutput = s.pinOutput := rfl
@[simp] theorem memRead_ccount (a : Addr) (s : State) : (memRead a s).ccount = s.ccount := rfl
@[simp] theorem memRead_sample (a : Addr) (s : State) : (memRead a s).sample = s.sample := rfl
@[simp] theorem memRead_stepNo (a : Addr) (s : State) : (memRead a s).stepNo = s.stepNo := rfl
@[simp] theorem memRead_wdtElapsed (a : Addr) (s : State) : (memRead a s).wdtElapsed = s.wdtElapsed := rfl
@[simp] theorem memRead_irqPending (a : Addr) (s : State) : (memRead a s).irqPending = s.irqPending := rfl
@[simp] theorem memRead_mem (a : Addr) (s : State) : (memRead a s).mem = s.mem := rfl
@[simp] theorem memRead_fb (a : Addr) (s : State) : (memRead a s).fb = s.fb := rfl
@[simp] theorem memRead_ret (a : Addr) (s : State) : (memRead a s).ret = s.ret := rfl
@[simp] theorem memRead_hostQueue (a : Addr) (s : State) : (memRead a s).hostQueue = s.hostQueue := rfl
@[simp] theorem memRead_draws (a : Addr) (s : State) : (memRead a s).draws = s.draws := rfl
@[simp] theorem memRead_params (a : Addr) (s : State) : (memRead a s).params = s.params := rfl
@[simp] theorem memRead_history (a : Addr) (s : State) :
    (memRead a s).history = s.history ++ [{ step := s.stepNo, kind := .memRead a (memValue a s) }] := rfl

/-! #### beginCycle -/

@[simp] theorem beginCycle_regs (s : State) : (beginCycle s).regs = s.regs := rfl
@[simp] theorem beginCycle_pc (s : State) : (beginCycle s).pc = s.pc := rfl
@[simp] theorem beginCycle_irqDisable (s : State) : (beginCycle s).irqDisable = s.irqDisable := rfl
@[simp] theorem beginCycle_inp (s : State) : (beginCycle s).inp = s.inp := rfl
@[simp] theorem beginCycle_upcoming (s : State) : (beginCycle s).upcoming = s.upcoming := rfl
@[simp] theorem beginCycle_out (s : State) : (beginCycle s).out = Outputs.quiet := rfl
@[simp] theorem beginCycle_pin (s : State) : (beginCycle s).pin = s.pin := rfl
@[simp] theorem beginCycle_pinOutput (s : State) : (beginCycle s).pinOutput = s.pinOutput := rfl
@[simp] theorem beginCycle_ccount (s : State) : (beginCycle s).ccount = s.ccount := rfl
@[simp] theorem beginCycle_sample (s : State) : (beginCycle s).sample = s.sample := rfl
@[simp] theorem beginCycle_stepNo (s : State) : (beginCycle s).stepNo = s.stepNo := rfl
@[simp] theorem beginCycle_wdtElapsed (s : State) : (beginCycle s).wdtElapsed = s.wdtElapsed := rfl
@[simp] theorem beginCycle_irqPending (s : State) : (beginCycle s).irqPending = s.irqPending := rfl
@[simp] theorem beginCycle_mem (s : State) : (beginCycle s).mem = s.mem := rfl
@[simp] theorem beginCycle_fb (s : State) : (beginCycle s).fb = s.fb := rfl
@[simp] theorem beginCycle_ret (s : State) : (beginCycle s).ret = s.ret := rfl
@[simp] theorem beginCycle_hostQueue (s : State) : (beginCycle s).hostQueue = s.hostQueue := rfl
@[simp] theorem beginCycle_draws (s : State) : (beginCycle s).draws = s.draws := rfl
@[simp] theorem beginCycle_params (s : State) : (beginCycle s).params = s.params := rfl
@[simp] theorem beginCycle_history (s : State) : (beginCycle s).history = s.history := rfl

/-! #### endCycle -/

@[simp] theorem endCycle_regs (m : Bool) (s : State) : (endCycle m s).regs = s.regs := rfl
@[simp] theorem endCycle_pc (m : Bool) (s : State) : (endCycle m s).pc = s.pc := rfl
@[simp] theorem endCycle_irqDisable (m : Bool) (s : State) : (endCycle m s).irqDisable = s.irqDisable := rfl
@[simp] theorem endCycle_inp (m : Bool) (s : State) : (endCycle m s).inp = nextInputs s := rfl
@[simp] theorem endCycle_upcoming (m : Bool) (s : State) : (endCycle m s).upcoming = s.upcoming.tail := rfl
@[simp] theorem endCycle_out (m : Bool) (s : State) : (endCycle m s).out = s.out := rfl
@[simp] theorem endCycle_pin (m : Bool) (s : State) : (endCycle m s).pin = s.pin := rfl
@[simp] theorem endCycle_pinOutput (m : Bool) (s : State) : (endCycle m s).pinOutput = s.pinOutput := rfl
@[simp] theorem endCycle_ccount (m : Bool) (s : State) : (endCycle m s).ccount = s.ccount + 1 := rfl
@[simp] theorem endCycle_sample (m : Bool) (s : State) : (endCycle m s).sample = s.sample := rfl
@[simp] theorem endCycle_stepNo (m : Bool) (s : State) : (endCycle m s).stepNo = s.stepNo + 1 := rfl
@[simp] theorem endCycle_wdtElapsed (m : Bool) (s : State) :
    (endCycle m s).wdtElapsed = if s.out.wdtReset then 0 else s.wdtElapsed + 1 := rfl
@[simp] theorem endCycle_irqPending (m : Bool) (s : State) : (endCycle m s).irqPending = pendingAfter m s := rfl
@[simp] theorem endCycle_mem (m : Bool) (s : State) : (endCycle m s).mem = s.mem := rfl
@[simp] theorem endCycle_fb (m : Bool) (s : State) : (endCycle m s).fb = s.fb := rfl
@[simp] theorem endCycle_ret (m : Bool) (s : State) : (endCycle m s).ret = s.ret := rfl
@[simp] theorem endCycle_hostQueue (m : Bool) (s : State) : (endCycle m s).hostQueue = s.hostQueue := rfl
@[simp] theorem endCycle_draws (m : Bool) (s : State) : (endCycle m s).draws = s.draws := rfl
@[simp] theorem endCycle_params (m : Bool) (s : State) : (endCycle m s).params = s.params := rfl
@[simp] theorem endCycle_history (m : Bool) (s : State) : (endCycle m s).history = s.history := rfl

/-! #### engineReset -/

@[simp] theorem engineReset_regs (s : State) : (engineReset s).regs = unspecifiedRegs s.draws.count := rfl
@[simp] theorem engineReset_pc (s : State) : (engineReset s).pc = .idle := rfl
@[simp] theorem engineReset_irqDisable (s : State) : (engineReset s).irqDisable = false := rfl
@[simp] theorem engineReset_inp (s : State) : (engineReset s).inp = s.inp := rfl
@[simp] theorem engineReset_upcoming (s : State) : (engineReset s).upcoming = s.upcoming := rfl
@[simp] theorem engineReset_out (s : State) : (engineReset s).out = s.out := rfl
@[simp] theorem engineReset_pin (s : State) : (engineReset s).pin = s.pin := rfl
@[simp] theorem engineReset_pinOutput (s : State) : (engineReset s).pinOutput = s.pinOutput := rfl
@[simp] theorem engineReset_ccount (s : State) : (engineReset s).ccount = s.ccount := rfl
@[simp] theorem engineReset_sample (s : State) : (engineReset s).sample = s.sample := rfl
@[simp] theorem engineReset_stepNo (s : State) : (engineReset s).stepNo = s.stepNo := rfl
@[simp] theorem engineReset_wdtElapsed (s : State) : (engineReset s).wdtElapsed = s.wdtElapsed := rfl
@[simp] theorem engineReset_irqPending (s : State) : (engineReset s).irqPending = s.irqPending := rfl
@[simp] theorem engineReset_mem (s : State) : (engineReset s).mem = s.mem := rfl
@[simp] theorem engineReset_fb (s : State) : (engineReset s).fb = s.fb := rfl
@[simp] theorem engineReset_ret (s : State) : (engineReset s).ret = s.ret := rfl
@[simp] theorem engineReset_hostQueue (s : State) : (engineReset s).hostQueue = s.hostQueue := rfl
@[simp] theorem engineReset_draws (s : State) :
    (engineReset s).draws = { s.draws with count := s.draws.count + 1 } := rfl
@[simp] theorem engineReset_params (s : State) : (engineReset s).params = s.params := rfl
@[simp] theorem engineReset_history (s : State) : (engineReset s).history = s.history := rfl

/-! #### driveCommand -/

@[simp] theorem driveCommand_regs (op : Bool) (pm : PinMask) (b : Addr) (l : Len) (s : State) :
    (driveCommand op pm b l s).regs = s.regs := rfl
@[simp] theorem driveCommand_pc (op : Bool) (pm : PinMask) (b : Addr) (l : Len) (s : State) :
    (driveCommand op pm b l s).pc = s.pc := rfl
@[simp] theorem driveCommand_irqDisable (op : Bool) (pm : PinMask) (b : Addr) (l : Len) (s : State) :
    (driveCommand op pm b l s).irqDisable = s.irqDisable := rfl
@[simp] theorem driveCommand_inp (op : Bool) (pm : PinMask) (b : Addr) (l : Len) (s : State) :
    (driveCommand op pm b l s).inp = { s.inp with start := op, pinMaskIn := pm, baseIn := b, lengthIn := l } := rfl
@[simp] theorem driveCommand_upcoming (op : Bool) (pm : PinMask) (b : Addr) (l : Len) (s : State) :
    (driveCommand op pm b l s).upcoming = s.upcoming := rfl
@[simp] theorem driveCommand_out (op : Bool) (pm : PinMask) (b : Addr) (l : Len) (s : State) :
    (driveCommand op pm b l s).out = s.out := rfl
@[simp] theorem driveCommand_pin (op : Bool) (pm : PinMask) (b : Addr) (l : Len) (s : State) :
    (driveCommand op pm b l s).pin = s.pin := rfl
@[simp] theorem driveCommand_pinOutput (op : Bool) (pm : PinMask) (b : Addr) (l : Len) (s : State) :
    (driveCommand op pm b l s).pinOutput = s.pinOutput := rfl
@[simp] theorem driveCommand_ccount (op : Bool) (pm : PinMask) (b : Addr) (l : Len) (s : State) :
    (driveCommand op pm b l s).ccount = s.ccount := rfl
@[simp] theorem driveCommand_sample (op : Bool) (pm : PinMask) (b : Addr) (l : Len) (s : State) :
    (driveCommand op pm b l s).sample = s.sample := rfl
@[simp] theorem driveCommand_stepNo (op : Bool) (pm : PinMask) (b : Addr) (l : Len) (s : State) :
    (driveCommand op pm b l s).stepNo = s.stepNo := rfl
@[simp] theorem driveCommand_wdtElapsed (op : Bool) (pm : PinMask) (b : Addr) (l : Len) (s : State) :
    (driveCommand op pm b l s).wdtElapsed = s.wdtElapsed := rfl
@[simp] theorem driveCommand_irqPending (op : Bool) (pm : PinMask) (b : Addr) (l : Len) (s : State) :
    (driveCommand op pm b l s).irqPending = s.irqPending := rfl
@[simp] theorem driveCommand_mem (op : Bool) (pm : PinMask) (b : Addr) (l : Len) (s : State) :
    (driveCommand op pm b l s).mem = s.mem := rfl
@[simp] theorem driveCommand_fb (op : Bool) (pm : PinMask) (b : Addr) (l : Len) (s : State) :
    (driveCommand op pm b l s).fb = s.fb := rfl
@[simp] theorem driveCommand_ret (op : Bool) (pm : PinMask) (b : Addr) (l : Len) (s : State) :
    (driveCommand op pm b l s).ret = s.ret := rfl
@[simp] theorem driveCommand_hostQueue (op : Bool) (pm : PinMask) (b : Addr) (l : Len) (s : State) :
    (driveCommand op pm b l s).hostQueue = s.hostQueue := rfl
@[simp] theorem driveCommand_draws (op : Bool) (pm : PinMask) (b : Addr) (l : Len) (s : State) :
    (driveCommand op pm b l s).draws = s.draws := rfl
@[simp] theorem driveCommand_params (op : Bool) (pm : PinMask) (b : Addr) (l : Len) (s : State) :
    (driveCommand op pm b l s).params = s.params := rfl
@[simp] theorem driveCommand_history (op : Bool) (pm : PinMask) (b : Addr) (l : Len) (s : State) :
    (driveCommand op pm b l s).history = s.history := rfl

/-! #### driveNoCommand -/

@[simp] theorem driveNoCommand_regs (s : State) : (driveNoCommand s).regs = s.regs := rfl
@[simp] theorem driveNoCommand_pc (s : State) : (driveNoCommand s).pc = s.pc := rfl
@[simp] theorem driveNoCommand_irqDisable (s : State) : (driveNoCommand s).irqDisable = s.irqDisable := rfl
@[simp] theorem driveNoCommand_inp (s : State) : (driveNoCommand s).inp = { s.inp with start := false } := rfl
@[simp] theorem driveNoCommand_upcoming (s : State) : (driveNoCommand s).upcoming = s.upcoming := rfl
@[simp] theorem driveNoCommand_out (s : State) : (driveNoCommand s).out = s.out := rfl
@[simp] theorem driveNoCommand_pin (s : State) : (driveNoCommand s).pin = s.pin := rfl
@[simp] theorem driveNoCommand_pinOutput (s : State) : (driveNoCommand s).pinOutput = s.pinOutput := rfl
@[simp] theorem driveNoCommand_ccount (s : State) : (driveNoCommand s).ccount = s.ccount := rfl
@[simp] theorem driveNoCommand_sample (s : State) : (driveNoCommand s).sample = s.sample := rfl
@[simp] theorem driveNoCommand_stepNo (s : State) : (driveNoCommand s).stepNo = s.stepNo := rfl
@[simp] theorem driveNoCommand_wdtElapsed (s : State) : (driveNoCommand s).wdtElapsed = s.wdtElapsed := rfl
@[simp] theorem driveNoCommand_irqPending (s : State) : (driveNoCommand s).irqPending = s.irqPending := rfl
@[simp] theorem driveNoCommand_mem (s : State) : (driveNoCommand s).mem = s.mem := rfl
@[simp] theorem driveNoCommand_fb (s : State) : (driveNoCommand s).fb = s.fb := rfl
@[simp] theorem driveNoCommand_ret (s : State) : (driveNoCommand s).ret = s.ret := rfl
@[simp] theorem driveNoCommand_hostQueue (s : State) : (driveNoCommand s).hostQueue = s.hostQueue := rfl
@[simp] theorem driveNoCommand_draws (s : State) : (driveNoCommand s).draws = s.draws := rfl
@[simp] theorem driveNoCommand_params (s : State) : (driveNoCommand s).params = s.params := rfl
@[simp] theorem driveNoCommand_history (s : State) : (driveNoCommand s).history = s.history := rfl

/-! #### giveBack -/

@[simp] theorem giveBack_regs (r : HostResult) (s : State) : (giveBack r s).regs = s.regs := rfl
@[simp] theorem giveBack_pc (r : HostResult) (s : State) : (giveBack r s).pc = s.pc := rfl
@[simp] theorem giveBack_irqDisable (r : HostResult) (s : State) : (giveBack r s).irqDisable = s.irqDisable := rfl
@[simp] theorem giveBack_inp (r : HostResult) (s : State) : (giveBack r s).inp = s.inp := rfl
@[simp] theorem giveBack_upcoming (r : HostResult) (s : State) : (giveBack r s).upcoming = s.upcoming := rfl
@[simp] theorem giveBack_out (r : HostResult) (s : State) : (giveBack r s).out = s.out := rfl
@[simp] theorem giveBack_pin (r : HostResult) (s : State) : (giveBack r s).pin = s.pin := rfl
@[simp] theorem giveBack_pinOutput (r : HostResult) (s : State) : (giveBack r s).pinOutput = s.pinOutput := rfl
@[simp] theorem giveBack_ccount (r : HostResult) (s : State) : (giveBack r s).ccount = s.ccount := rfl
@[simp] theorem giveBack_sample (r : HostResult) (s : State) : (giveBack r s).sample = s.sample := rfl
@[simp] theorem giveBack_stepNo (r : HostResult) (s : State) : (giveBack r s).stepNo = s.stepNo := rfl
@[simp] theorem giveBack_wdtElapsed (r : HostResult) (s : State) : (giveBack r s).wdtElapsed = s.wdtElapsed := rfl
@[simp] theorem giveBack_irqPending (r : HostResult) (s : State) : (giveBack r s).irqPending = s.irqPending := rfl
@[simp] theorem giveBack_mem (r : HostResult) (s : State) : (giveBack r s).mem = s.mem := rfl
@[simp] theorem giveBack_fb (r : HostResult) (s : State) : (giveBack r s).fb = s.fb := rfl
@[simp] theorem giveBack_ret (r : HostResult) (s : State) : (giveBack r s).ret = r := rfl
@[simp] theorem giveBack_hostQueue (r : HostResult) (s : State) : (giveBack r s).hostQueue = s.hostQueue := rfl
@[simp] theorem giveBack_draws (r : HostResult) (s : State) : (giveBack r s).draws = s.draws := rfl
@[simp] theorem giveBack_params (r : HostResult) (s : State) : (giveBack r s).params = s.params := rfl
@[simp] theorem giveBack_history (r : HostResult) (s : State) : (giveBack r s).history = s.history := rfl

/-! #### storeByte -/

@[simp] theorem storeByte_regs (a : Addr) (v : Byte) (s : State) : (storeByte a v s).regs = s.regs := rfl
@[simp] theorem storeByte_pc (a : Addr) (v : Byte) (s : State) : (storeByte a v s).pc = s.pc := rfl
@[simp] theorem storeByte_irqDisable (a : Addr) (v : Byte) (s : State) :
    (storeByte a v s).irqDisable = s.irqDisable := rfl
@[simp] theorem storeByte_inp (a : Addr) (v : Byte) (s : State) : (storeByte a v s).inp = s.inp := rfl
@[simp] theorem storeByte_upcoming (a : Addr) (v : Byte) (s : State) : (storeByte a v s).upcoming = s.upcoming := rfl
@[simp] theorem storeByte_out (a : Addr) (v : Byte) (s : State) : (storeByte a v s).out = s.out := rfl
@[simp] theorem storeByte_pin (a : Addr) (v : Byte) (s : State) : (storeByte a v s).pin = s.pin := rfl
@[simp] theorem storeByte_pinOutput (a : Addr) (v : Byte) (s : State) :
    (storeByte a v s).pinOutput = s.pinOutput := rfl
@[simp] theorem storeByte_ccount (a : Addr) (v : Byte) (s : State) : (storeByte a v s).ccount = s.ccount := rfl
@[simp] theorem storeByte_sample (a : Addr) (v : Byte) (s : State) : (storeByte a v s).sample = s.sample := rfl
@[simp] theorem storeByte_stepNo (a : Addr) (v : Byte) (s : State) : (storeByte a v s).stepNo = s.stepNo := rfl
@[simp] theorem storeByte_wdtElapsed (a : Addr) (v : Byte) (s : State) :
    (storeByte a v s).wdtElapsed = s.wdtElapsed := rfl
@[simp] theorem storeByte_irqPending (a : Addr) (v : Byte) (s : State) :
    (storeByte a v s).irqPending = s.irqPending := rfl
@[simp] theorem storeByte_mem (a : Addr) (v : Byte) (s : State) : (storeByte a v s).mem = s.mem.write a.toNat v := rfl
@[simp] theorem storeByte_fb (a : Addr) (v : Byte) (s : State) : (storeByte a v s).fb = s.fb := rfl
@[simp] theorem storeByte_ret (a : Addr) (v : Byte) (s : State) : (storeByte a v s).ret = s.ret := rfl
@[simp] theorem storeByte_hostQueue (a : Addr) (v : Byte) (s : State) :
    (storeByte a v s).hostQueue = s.hostQueue := rfl
@[simp] theorem storeByte_draws (a : Addr) (v : Byte) (s : State) : (storeByte a v s).draws = s.draws := rfl
@[simp] theorem storeByte_params (a : Addr) (v : Byte) (s : State) : (storeByte a v s).params = s.params := rfl
@[simp] theorem storeByte_history (a : Addr) (v : Byte) (s : State) : (storeByte a v s).history = s.history := rfl

/-! #### storeBytes -/

@[simp] theorem storeBytes_regs (a : Addr) (bs : List Byte) (s : State) : (storeBytes a bs s).regs = s.regs := rfl
@[simp] theorem storeBytes_pc (a : Addr) (bs : List Byte) (s : State) : (storeBytes a bs s).pc = s.pc := rfl
@[simp] theorem storeBytes_irqDisable (a : Addr) (bs : List Byte) (s : State) :
    (storeBytes a bs s).irqDisable = s.irqDisable := rfl
@[simp] theorem storeBytes_inp (a : Addr) (bs : List Byte) (s : State) : (storeBytes a bs s).inp = s.inp := rfl
@[simp] theorem storeBytes_upcoming (a : Addr) (bs : List Byte) (s : State) :
    (storeBytes a bs s).upcoming = s.upcoming := rfl
@[simp] theorem storeBytes_out (a : Addr) (bs : List Byte) (s : State) : (storeBytes a bs s).out = s.out := rfl
@[simp] theorem storeBytes_pin (a : Addr) (bs : List Byte) (s : State) : (storeBytes a bs s).pin = s.pin := rfl
@[simp] theorem storeBytes_pinOutput (a : Addr) (bs : List Byte) (s : State) :
    (storeBytes a bs s).pinOutput = s.pinOutput := rfl
@[simp] theorem storeBytes_ccount (a : Addr) (bs : List Byte) (s : State) :
    (storeBytes a bs s).ccount = s.ccount := rfl
@[simp] theorem storeBytes_sample (a : Addr) (bs : List Byte) (s : State) :
    (storeBytes a bs s).sample = s.sample := rfl
@[simp] theorem storeBytes_stepNo (a : Addr) (bs : List Byte) (s : State) :
    (storeBytes a bs s).stepNo = s.stepNo := rfl
@[simp] theorem storeBytes_wdtElapsed (a : Addr) (bs : List Byte) (s : State) :
    (storeBytes a bs s).wdtElapsed = s.wdtElapsed := rfl
@[simp] theorem storeBytes_irqPending (a : Addr) (bs : List Byte) (s : State) :
    (storeBytes a bs s).irqPending = s.irqPending := rfl
@[simp] theorem storeBytes_mem (a : Addr) (bs : List Byte) (s : State) :
    (storeBytes a bs s).mem = s.mem.writeBytes a bs := rfl
@[simp] theorem storeBytes_fb (a : Addr) (bs : List Byte) (s : State) : (storeBytes a bs s).fb = s.fb := rfl
@[simp] theorem storeBytes_ret (a : Addr) (bs : List Byte) (s : State) : (storeBytes a bs s).ret = s.ret := rfl
@[simp] theorem storeBytes_hostQueue (a : Addr) (bs : List Byte) (s : State) :
    (storeBytes a bs s).hostQueue = s.hostQueue := rfl
@[simp] theorem storeBytes_draws (a : Addr) (bs : List Byte) (s : State) : (storeBytes a bs s).draws = s.draws := rfl
@[simp] theorem storeBytes_params (a : Addr) (bs : List Byte) (s : State) :
    (storeBytes a bs s).params = s.params := rfl
@[simp] theorem storeBytes_history (a : Addr) (bs : List Byte) (s : State) :
    (storeBytes a bs s).history = s.history := rfl

/-! #### storeFb -/

@[simp] theorem storeFb_regs (off : Nat) (bs : List Byte) (s : State) : (storeFb off bs s).regs = s.regs := rfl
@[simp] theorem storeFb_pc (off : Nat) (bs : List Byte) (s : State) : (storeFb off bs s).pc = s.pc := rfl
@[simp] theorem storeFb_irqDisable (off : Nat) (bs : List Byte) (s : State) :
    (storeFb off bs s).irqDisable = s.irqDisable := rfl
@[simp] theorem storeFb_inp (off : Nat) (bs : List Byte) (s : State) : (storeFb off bs s).inp = s.inp := rfl
@[simp] theorem storeFb_upcoming (off : Nat) (bs : List Byte) (s : State) :
    (storeFb off bs s).upcoming = s.upcoming := rfl
@[simp] theorem storeFb_out (off : Nat) (bs : List Byte) (s : State) : (storeFb off bs s).out = s.out := rfl
@[simp] theorem storeFb_pin (off : Nat) (bs : List Byte) (s : State) : (storeFb off bs s).pin = s.pin := rfl
@[simp] theorem storeFb_pinOutput (off : Nat) (bs : List Byte) (s : State) :
    (storeFb off bs s).pinOutput = s.pinOutput := rfl
@[simp] theorem storeFb_ccount (off : Nat) (bs : List Byte) (s : State) : (storeFb off bs s).ccount = s.ccount := rfl
@[simp] theorem storeFb_sample (off : Nat) (bs : List Byte) (s : State) : (storeFb off bs s).sample = s.sample := rfl
@[simp] theorem storeFb_stepNo (off : Nat) (bs : List Byte) (s : State) : (storeFb off bs s).stepNo = s.stepNo := rfl
@[simp] theorem storeFb_wdtElapsed (off : Nat) (bs : List Byte) (s : State) :
    (storeFb off bs s).wdtElapsed = s.wdtElapsed := rfl
@[simp] theorem storeFb_irqPending (off : Nat) (bs : List Byte) (s : State) :
    (storeFb off bs s).irqPending = s.irqPending := rfl
@[simp] theorem storeFb_mem (off : Nat) (bs : List Byte) (s : State) :
    (storeFb off bs s).mem = s.mem.writeBytes (fbAddr off s) bs := rfl
@[simp] theorem storeFb_fb (off : Nat) (bs : List Byte) (s : State) : (storeFb off bs s).fb = s.fb := rfl
@[simp] theorem storeFb_ret (off : Nat) (bs : List Byte) (s : State) : (storeFb off bs s).ret = s.ret := rfl
@[simp] theorem storeFb_hostQueue (off : Nat) (bs : List Byte) (s : State) :
    (storeFb off bs s).hostQueue = s.hostQueue := rfl
@[simp] theorem storeFb_draws (off : Nat) (bs : List Byte) (s : State) : (storeFb off bs s).draws = s.draws := rfl
@[simp] theorem storeFb_params (off : Nat) (bs : List Byte) (s : State) : (storeFb off bs s).params = s.params := rfl
@[simp] theorem storeFb_history (off : Nat) (bs : List Byte) (s : State) :
    (storeFb off bs s).history = s.history := rfl

/-! #### loadByte -/

@[simp] theorem loadByte_regs (a : Addr) (s : State) : (loadByte a s).regs = s.regs := rfl
@[simp] theorem loadByte_pc (a : Addr) (s : State) : (loadByte a s).pc = s.pc := rfl
@[simp] theorem loadByte_irqDisable (a : Addr) (s : State) : (loadByte a s).irqDisable = s.irqDisable := rfl
@[simp] theorem loadByte_inp (a : Addr) (s : State) : (loadByte a s).inp = s.inp := rfl
@[simp] theorem loadByte_upcoming (a : Addr) (s : State) : (loadByte a s).upcoming = s.upcoming := rfl
@[simp] theorem loadByte_out (a : Addr) (s : State) : (loadByte a s).out = s.out := rfl
@[simp] theorem loadByte_pin (a : Addr) (s : State) : (loadByte a s).pin = s.pin := rfl
@[simp] theorem loadByte_pinOutput (a : Addr) (s : State) : (loadByte a s).pinOutput = s.pinOutput := rfl
@[simp] theorem loadByte_ccount (a : Addr) (s : State) : (loadByte a s).ccount = s.ccount := rfl
@[simp] theorem loadByte_sample (a : Addr) (s : State) : (loadByte a s).sample = s.sample := rfl
@[simp] theorem loadByte_stepNo (a : Addr) (s : State) : (loadByte a s).stepNo = s.stepNo := rfl
@[simp] theorem loadByte_wdtElapsed (a : Addr) (s : State) : (loadByte a s).wdtElapsed = s.wdtElapsed := rfl
@[simp] theorem loadByte_irqPending (a : Addr) (s : State) : (loadByte a s).irqPending = s.irqPending := rfl
@[simp] theorem loadByte_mem (a : Addr) (s : State) : (loadByte a s).mem = s.mem := rfl
@[simp] theorem loadByte_fb (a : Addr) (s : State) : (loadByte a s).fb = s.fb := rfl
@[simp] theorem loadByte_ret (a : Addr) (s : State) : (loadByte a s).ret = .byte (memValue a s) := rfl
@[simp] theorem loadByte_hostQueue (a : Addr) (s : State) : (loadByte a s).hostQueue = s.hostQueue := rfl
@[simp] theorem loadByte_draws (a : Addr) (s : State) : (loadByte a s).draws = s.draws := rfl
@[simp] theorem loadByte_params (a : Addr) (s : State) : (loadByte a s).params = s.params := rfl
@[simp] theorem loadByte_history (a : Addr) (s : State) : (loadByte a s).history = s.history := rfl

/-! #### loseBuffer -/

@[simp] theorem loseBuffer_regs (s : State) : (loseBuffer s).regs = s.regs := rfl
@[simp] theorem loseBuffer_pc (s : State) : (loseBuffer s).pc = s.pc := rfl
@[simp] theorem loseBuffer_irqDisable (s : State) : (loseBuffer s).irqDisable = s.irqDisable := rfl
@[simp] theorem loseBuffer_inp (s : State) : (loseBuffer s).inp = s.inp := rfl
@[simp] theorem loseBuffer_upcoming (s : State) : (loseBuffer s).upcoming = s.upcoming := rfl
@[simp] theorem loseBuffer_out (s : State) : (loseBuffer s).out = s.out := rfl
@[simp] theorem loseBuffer_pin (s : State) : (loseBuffer s).pin = s.pin := rfl
@[simp] theorem loseBuffer_pinOutput (s : State) : (loseBuffer s).pinOutput = s.pinOutput := rfl
@[simp] theorem loseBuffer_ccount (s : State) : (loseBuffer s).ccount = s.ccount := rfl
@[simp] theorem loseBuffer_sample (s : State) : (loseBuffer s).sample = s.sample := rfl
@[simp] theorem loseBuffer_stepNo (s : State) : (loseBuffer s).stepNo = s.stepNo := rfl
@[simp] theorem loseBuffer_wdtElapsed (s : State) : (loseBuffer s).wdtElapsed = s.wdtElapsed := rfl
@[simp] theorem loseBuffer_irqPending (s : State) : (loseBuffer s).irqPending = s.irqPending := rfl
@[simp] theorem loseBuffer_mem (s : State) :
    (loseBuffer s).mem = s.mem.writeBytes s.fb.base (unstatedBytes s.draws.count s.fb.len) := rfl
@[simp] theorem loseBuffer_fb (s : State) : (loseBuffer s).fb = s.fb := rfl
@[simp] theorem loseBuffer_ret (s : State) : (loseBuffer s).ret = s.ret := rfl
@[simp] theorem loseBuffer_hostQueue (s : State) : (loseBuffer s).hostQueue = s.hostQueue := rfl
@[simp] theorem loseBuffer_draws (s : State) :
    (loseBuffer s).draws = { s.draws with count := s.draws.count + 1 } := rfl
@[simp] theorem loseBuffer_params (s : State) : (loseBuffer s).params = s.params := rfl
@[simp] theorem loseBuffer_history (s : State) : (loseBuffer s).history = s.history := rfl

/-! #### teardown -/

@[simp] theorem teardown_regs (s : State) : (teardown s).regs = s.regs := rfl
@[simp] theorem teardown_pc (s : State) : (teardown s).pc = s.pc := rfl
@[simp] theorem teardown_irqDisable (s : State) : (teardown s).irqDisable = s.irqDisable := rfl
@[simp] theorem teardown_inp (s : State) : (teardown s).inp = s.inp := rfl
@[simp] theorem teardown_upcoming (s : State) : (teardown s).upcoming = s.upcoming := rfl
@[simp] theorem teardown_out (s : State) : (teardown s).out = s.out := rfl
@[simp] theorem teardown_pin (s : State) : (teardown s).pin = s.pin := rfl
@[simp] theorem teardown_pinOutput (s : State) : (teardown s).pinOutput = s.pinOutput := rfl
@[simp] theorem teardown_ccount (s : State) : (teardown s).ccount = s.ccount := rfl
@[simp] theorem teardown_sample (s : State) : (teardown s).sample = s.sample := rfl
@[simp] theorem teardown_stepNo (s : State) : (teardown s).stepNo = s.stepNo := rfl
@[simp] theorem teardown_wdtElapsed (s : State) : (teardown s).wdtElapsed = s.wdtElapsed := rfl
@[simp] theorem teardown_irqPending (s : State) : (teardown s).irqPending = s.irqPending := rfl
@[simp] theorem teardown_mem (s : State) :
    (teardown s).mem = s.mem.writeBytes s.fb.base (unstatedBytes s.draws.count s.fb.len) := rfl
@[simp] theorem teardown_fb (s : State) : (teardown s).fb = Framebuffer.absent := rfl
@[simp] theorem teardown_ret (s : State) : (teardown s).ret = .nothing := rfl
@[simp] theorem teardown_hostQueue (s : State) : (teardown s).hostQueue = s.hostQueue := rfl
@[simp] theorem teardown_draws (s : State) : (teardown s).draws = { s.draws with count := s.draws.count + 1 } := rfl
@[simp] theorem teardown_params (s : State) : (teardown s).params = s.params := rfl
@[simp] theorem teardown_history (s : State) : (teardown s).history = s.history := rfl

/-! #### setPinMode -/

@[simp] theorem setPinMode_regs (mask : PinMask) (s : State) : (setPinMode mask s).regs = s.regs := rfl
@[simp] theorem setPinMode_pc (mask : PinMask) (s : State) : (setPinMode mask s).pc = s.pc := rfl
@[simp] theorem setPinMode_irqDisable (mask : PinMask) (s : State) :
    (setPinMode mask s).irqDisable = s.irqDisable := rfl
@[simp] theorem setPinMode_inp (mask : PinMask) (s : State) : (setPinMode mask s).inp = s.inp := rfl
@[simp] theorem setPinMode_upcoming (mask : PinMask) (s : State) : (setPinMode mask s).upcoming = s.upcoming := rfl
@[simp] theorem setPinMode_out (mask : PinMask) (s : State) : (setPinMode mask s).out = s.out := rfl
@[simp] theorem setPinMode_pin (mask : PinMask) (s : State) : (setPinMode mask s).pin = s.pin := rfl
@[simp] theorem setPinMode_pinOutput (mask : PinMask) (s : State) :
    (setPinMode mask s).pinOutput = s.pinOutput ||| mask := rfl
@[simp] theorem setPinMode_ccount (mask : PinMask) (s : State) : (setPinMode mask s).ccount = s.ccount := rfl
@[simp] theorem setPinMode_sample (mask : PinMask) (s : State) : (setPinMode mask s).sample = s.sample := rfl
@[simp] theorem setPinMode_stepNo (mask : PinMask) (s : State) : (setPinMode mask s).stepNo = s.stepNo := rfl
@[simp] theorem setPinMode_wdtElapsed (mask : PinMask) (s : State) :
    (setPinMode mask s).wdtElapsed = s.wdtElapsed := rfl
@[simp] theorem setPinMode_irqPending (mask : PinMask) (s : State) :
    (setPinMode mask s).irqPending = s.irqPending := rfl
@[simp] theorem setPinMode_mem (mask : PinMask) (s : State) : (setPinMode mask s).mem = s.mem := rfl
@[simp] theorem setPinMode_fb (mask : PinMask) (s : State) : (setPinMode mask s).fb = s.fb := rfl
@[simp] theorem setPinMode_ret (mask : PinMask) (s : State) : (setPinMode mask s).ret = s.ret := rfl
@[simp] theorem setPinMode_hostQueue (mask : PinMask) (s : State) : (setPinMode mask s).hostQueue = s.hostQueue := rfl
@[simp] theorem setPinMode_draws (mask : PinMask) (s : State) : (setPinMode mask s).draws = s.draws := rfl
@[simp] theorem setPinMode_params (mask : PinMask) (s : State) : (setPinMode mask s).params = s.params := rfl
@[simp] theorem setPinMode_history (mask : PinMask) (s : State) : (setPinMode mask s).history = s.history := rfl

/-! #### writePin -/

@[simp] theorem writePin_regs (mask : PinMask) (level : Bool) (s : State) :
    (writePin mask level s).regs = s.regs := rfl
@[simp] theorem writePin_pc (mask : PinMask) (level : Bool) (s : State) : (writePin mask level s).pc = s.pc := rfl
@[simp] theorem writePin_irqDisable (mask : PinMask) (level : Bool) (s : State) :
    (writePin mask level s).irqDisable = s.irqDisable := rfl
@[simp] theorem writePin_inp (mask : PinMask) (level : Bool) (s : State) : (writePin mask level s).inp = s.inp := rfl
@[simp] theorem writePin_upcoming (mask : PinMask) (level : Bool) (s : State) :
    (writePin mask level s).upcoming = s.upcoming := rfl
@[simp] theorem writePin_out (mask : PinMask) (level : Bool) (s : State) : (writePin mask level s).out = s.out := rfl
@[simp] theorem writePin_pin (mask : PinMask) (level : Bool) (s : State) :
    (writePin mask level s).pin = drivePins s.pin mask level := rfl
@[simp] theorem writePin_pinOutput (mask : PinMask) (level : Bool) (s : State) :
    (writePin mask level s).pinOutput = s.pinOutput := rfl
@[simp] theorem writePin_ccount (mask : PinMask) (level : Bool) (s : State) :
    (writePin mask level s).ccount = s.ccount := rfl
@[simp] theorem writePin_sample (mask : PinMask) (level : Bool) (s : State) :
    (writePin mask level s).sample = s.sample := rfl
@[simp] theorem writePin_stepNo (mask : PinMask) (level : Bool) (s : State) :
    (writePin mask level s).stepNo = s.stepNo := rfl
@[simp] theorem writePin_wdtElapsed (mask : PinMask) (level : Bool) (s : State) :
    (writePin mask level s).wdtElapsed = s.wdtElapsed := rfl
@[simp] theorem writePin_irqPending (mask : PinMask) (level : Bool) (s : State) :
    (writePin mask level s).irqPending = s.irqPending := rfl
@[simp] theorem writePin_mem (mask : PinMask) (level : Bool) (s : State) : (writePin mask level s).mem = s.mem := rfl
@[simp] theorem writePin_fb (mask : PinMask) (level : Bool) (s : State) : (writePin mask level s).fb = s.fb := rfl
@[simp] theorem writePin_ret (mask : PinMask) (level : Bool) (s : State) : (writePin mask level s).ret = s.ret := rfl
@[simp] theorem writePin_hostQueue (mask : PinMask) (level : Bool) (s : State) :
    (writePin mask level s).hostQueue = s.hostQueue := rfl
@[simp] theorem writePin_draws (mask : PinMask) (level : Bool) (s : State) :
    (writePin mask level s).draws = s.draws := rfl
@[simp] theorem writePin_params (mask : PinMask) (level : Bool) (s : State) :
    (writePin mask level s).params = s.params := rfl
@[simp] theorem writePin_history (mask : PinMask) (level : Bool) (s : State) :
    (writePin mask level s).history = s.history := rfl

end Sys2Proof.Machine
end

