-- ==== Sys2Proof/Laws/Ops.lean ====
section
/-! SUPPORT. What each shared operation that is a choice can do, said once: WaitTick, the pins, the pending set, the
draws, and one CLK cycle. -/

namespace Sys2Proof.Machine

/-- What every action inside a step leaves alone: the ports, the clock, the step number, memory, the host's side and
the parameters. The history only grows. -/
structure ActFrame (s t : State) : Prop where
  inp : t.inp = s.inp
  upcoming : t.upcoming = s.upcoming
  pinOutput : t.pinOutput = s.pinOutput
  ccount : t.ccount = s.ccount
  stepNo : t.stepNo = s.stepNo
  irqPending : t.irqPending = s.irqPending
  mem : t.mem = s.mem
  fb : t.fb = s.fb
  ret : t.ret = s.ret
  hostQueue : t.hostQueue = s.hostQueue
  params : t.params = s.params
  history : ∃ l : List EventKind, t.history = s.history ++ l.map (fun k => { step := s.stepNo, kind := k })

theorem ActFrame.refl (s : State) : ActFrame s s :=
  ⟨rfl, rfl, rfl, rfl, rfl, rfl, rfl, rfl, rfl, rfl, rfl, [], by simp⟩

theorem ActFrame.trans {s t u : State} (h : ActFrame s t) (k : ActFrame t u) : ActFrame s u := by
  obtain ⟨l, hl⟩ := h.history
  obtain ⟨m, hm⟩ := k.history
  exact ⟨k.inp.trans h.inp, k.upcoming.trans h.upcoming, k.pinOutput.trans h.pinOutput, k.ccount.trans h.ccount,
    k.stepNo.trans h.stepNo, k.irqPending.trans h.irqPending, k.mem.trans h.mem, k.fb.trans h.fb,
    k.ret.trans h.ret, k.hostQueue.trans h.hostQueue, k.params.trans h.params, l ++ m, by
      simp [hm, hl, h.stepNo]⟩

/-- An action with the frame's fields unchanged by definition and one list of new events. -/
theorem ActFrame.of_events {s t : State} (l : List EventKind) (h0 : t.inp = s.inp) (h1 : t.upcoming = s.upcoming)
    (h2 : t.pinOutput = s.pinOutput) (h3 : t.ccount = s.ccount) (h4 : t.stepNo = s.stepNo)
    (h5 : t.irqPending = s.irqPending) (h6 : t.mem = s.mem) (h7 : t.fb = s.fb) (h8 : t.ret = s.ret)
    (h9 : t.hostQueue = s.hostQueue) (h10 : t.params = s.params)
    (h11 : t.history = s.history ++ l.map (fun k => { step := s.stepNo, kind := k })) : ActFrame s t :=
  ⟨h0, h1, h2, h3, h4, h5, h6, h7, h8, h9, h10, l, h11⟩

/-! ### WaitTick (R147) -/

/-- Past the threshold the tick resets the watchdog and clears W. -/
theorem waitTick_over {s : State} (h : s.params.wdtThresh < s.regs.w.toNat + 1) :
    waitTick s = { wdtReset s with regs := { s.regs with w := 0 } } := if_pos h

/-- Up to the threshold the tick counts the poll. -/
theorem waitTick_under {s : State} (h : s.regs.w.toNat + 1 ≤ s.params.wdtThresh) :
    waitTick s = { s with regs := { s.regs with w := s.regs.w + 1 } } := if_neg (by omega)

@[simp] theorem waitTick_pc (s : State) : (waitTick s).pc = s.pc := by unfold waitTick; split <;> rfl
@[simp] theorem waitTick_irqDisable (s : State) : (waitTick s).irqDisable = s.irqDisable := by
  unfold waitTick; split <;> rfl
@[simp] theorem waitTick_pin (s : State) : (waitTick s).pin = s.pin := by unfold waitTick; split <;> rfl
@[simp] theorem waitTick_sample (s : State) : (waitTick s).sample = s.sample := by unfold waitTick; split <;> rfl
@[simp] theorem waitTick_draws (s : State) : (waitTick s).draws = s.draws := by unfold waitTick; split <;> rfl
@[simp] theorem waitTick_mem (s : State) : (waitTick s).mem = s.mem := by unfold waitTick; split <;> rfl
@[simp] theorem waitTick_ccount (s : State) : (waitTick s).ccount = s.ccount := by unfold waitTick; split <;> rfl
@[simp] theorem waitTick_inp (s : State) : (waitTick s).inp = s.inp := by unfold waitTick; split <;> rfl
@[simp] theorem waitTick_upcoming (s : State) : (waitTick s).upcoming = s.upcoming := by
  unfold waitTick; split <;> rfl
@[simp] theorem waitTick_params (s : State) : (waitTick s).params = s.params := by unfold waitTick; split <;> rfl
@[simp] theorem waitTick_fb (s : State) : (waitTick s).fb = s.fb := by unfold waitTick; split <;> rfl
@[simp] theorem waitTick_stepNo (s : State) : (waitTick s).stepNo = s.stepNo := by unfold waitTick; split <;> rfl

/-- The tick changes no register but W. -/
theorem waitTick_regs (s : State) : (waitTick s).regs = { s.regs with w := (waitTick s).regs.w } := by
  unfold waitTick; split <;> rfl

/-- After a tick W is at most the threshold (R29). -/
theorem waitTick_w_le (s : State) : (waitTick s).regs.w.toNat ≤ s.params.wdtThresh := by
  unfold waitTick
  split
  · simp
  · have := s.regs.w.isLt
    simp [BitVec.toNat_add] at *
    omega

theorem waitTick_frame (s : State) : ActFrame s (waitTick s) := by
  unfold waitTick
  split
  · exact .of_events [.wdtReset] rfl rfl rfl rfl rfl rfl rfl rfl rfl rfl rfl rfl
  · exact .of_events [] rfl rfl rfl rfl rfl rfl rfl rfl rfl rfl rfl (by simp)

/-! ### The pins (R143) -/

/-- A pin of the mask takes the level, every other pin keeps its own. -/
theorem drivePins_getLsbD (pin mask : PinMask) (level : Bool) (p : Nat) :
    (drivePins pin mask level).getLsbD p = if mask.getLsbD p then level else pin.getLsbD p := by
  unfold drivePins
  by_cases hp : p < 16
  · rw [BitVec.getLsbD_eq_getElem hp] at *
    cases level <;> cases h : mask[p] <;> simp [h, hp]
  · have h1 : mask.getLsbD p = false := BitVec.getLsbD_of_ge _ _ (by omega)
    cases level <;> simp [h1, BitVec.getLsbD_of_ge pin p (by omega)]

theorem drivePins_high (pin mask : PinMask) : drivePins pin mask true &&& mask = mask := by
  ext i hi; simp [drivePins]; tauto

theorem drivePins_low (pin mask : PinMask) : drivePins pin mask false &&& mask = 0 := by
  ext i hi; simp [drivePins]

/-! ### Pending interrupts (R35) -/

theorem mem_addRequests (r : Nat) (new pending : List Nat) :
    r ∈ addRequests pending new ↔ r ∈ pending ∨ r ∈ new := by
  induction new generalizing pending with
  | nil => simp [addRequests]
  | cons q rest ih =>
    rw [addRequests, ih]
    split <;> simp <;> aesop

/-- While interrupts are disabled no pending request goes away. -/
theorem mem_pendingAfter_masked {r : Nat} {s : State} (h : r ∈ s.irqPending) : r ∈ pendingAfter true s := by
  unfold pendingAfter
  simp only [if_true]
  split
  · exact (mem_addRequests _ _ _).2 (.inl h)
  · exact h

/-! ### The allocator's answer (R165) -/

/-- A region the platform places lies inside the address space. -/
theorem allocDraw_fits {n : Nat} {s : State} {a : Addr} (h : allocDraw n s = some a) : a.toNat + n ≤ 2 ^ 32 := by
  unfold allocDraw at h
  split at h
  · split at h
    · next hle => cases h; exact hle
    · cases h
  · cases h

/-! ### One CLK cycle (R20) -/

@[simp] theorem cycle_regs (act : State → State) (s : State) : (cycle act s).regs = (act (beginCycle s)).regs := rfl
@[simp] theorem cycle_pc (act : State → State) (s : State) : (cycle act s).pc = (act (beginCycle s)).pc := rfl
@[simp] theorem cycle_irqDisable (act : State → State) (s : State) :
    (cycle act s).irqDisable = (act (beginCycle s)).irqDisable := rfl
@[simp] theorem cycle_out (act : State → State) (s : State) : (cycle act s).out = (act (beginCycle s)).out := rfl
@[simp] theorem cycle_pin (act : State → State) (s : State) : (cycle act s).pin = (act (beginCycle s)).pin := rfl
@[simp] theorem cycle_sample (act : State → State) (s : State) :
    (cycle act s).sample = (act (beginCycle s)).sample := rfl
@[simp] theorem cycle_draws (act : State → State) (s : State) :
    (cycle act s).draws = (act (beginCycle s)).draws := rfl
@[simp] theorem cycle_history (act : State → State) (s : State) :
    (cycle act s).history = (act (beginCycle s)).history := rfl

/-- What a cycle does to everything the engine's action has no hand in. -/
structure CycleLaw (s t : State) : Prop where
  ccount : t.ccount = s.ccount + 1
  stepNo : t.stepNo = s.stepNo + 1
  inp : t.inp = nextInputs s
  upcoming : t.upcoming = s.upcoming.tail
  irqPending : t.irqPending = pendingAfter s.irqDisable s
  pinOutput : t.pinOutput = s.pinOutput
  mem : t.mem = s.mem
  fb : t.fb = s.fb
  ret : t.ret = s.ret
  hostQueue : t.hostQueue = s.hostQueue
  params : t.params = s.params
  history : ∃ l : List EventKind, t.history = s.history ++ l.map (fun k => { step := s.stepNo, kind := k })

theorem cycle_law {act : State → State} {s : State} (h : ActFrame (beginCycle s) (act (beginCycle s))) :
    CycleLaw s (cycle act s) where
  ccount := congrArg (· + 1) h.ccount
  stepNo := congrArg (· + 1) h.stepNo
  inp := by simp only [cycle, endCycle_inp, nextInputs, h.inp, h.upcoming]; rfl
  upcoming := congrArg List.tail h.upcoming
  irqPending := by
    simp only [cycle, endCycle_irqPending, pendingAfter, h.inp, h.irqPending, h.params, h.stepNo]; rfl
  pinOutput := h.pinOutput
  mem := h.mem
  fb := h.fb
  ret := h.ret
  hostQueue := h.hostQueue
  params := h.params
  history := h.history

end Sys2Proof.Machine
end

