-- ==== Sys2Proof/Laws/Sequencer.lean ====
section
/-! SUPPORT. The micro-operations: the frame of each action and the law of each cycle, said once, and the one
inversion lemma of an engine step. -/

namespace Sys2Proof.Machine

theorem acceptAct_frame (s : State) : ActFrame s (acceptAct s) :=
  .of_events [.irqLock] rfl rfl rfl rfl rfl rfl rfl rfl rfl rfl rfl rfl

theorem preAct_frame (s : State) : ActFrame s (preAct s) := by
  unfold preAct
  split
  · exact .of_events [.wdtReset] rfl rfl rfl rfl rfl rfl rfl rfl rfl rfl rfl rfl
  · exact .of_events [.wdtReset, .memRead s.regs.base (memValue s.regs.base s)] rfl rfl rfl rfl rfl rfl rfl rfl rfl
      rfl rfl (by simp [preFetch, preInit, memValue])

theorem cycleCount_frame (s : State) : ActFrame s (cycleCount s) :=
  .of_events [] rfl rfl rfl rfl rfl rfl rfl rfl rfl rfl rfl (by simp)

theorem lowPollAct_frame (s : State) : ActFrame s (lowPollAct s) :=
  (cycleCount_frame s).trans (waitTick_frame (cycleCount s))

theorem riseAct_frame (s : State) : ActFrame s (riseAct s) :=
  .of_events [.pinWrite s.regs.pinMask true] rfl rfl rfl rfl rfl rfl rfl rfl rfl rfl rfl rfl

theorem highPollAct_frame (s : State) : ActFrame s (highPollAct s) :=
  (cycleCount_frame s).trans (waitTick_frame (cycleCount s))

theorem advance_frame (s : State) : ActFrame s (advance s) := by
  unfold advance
  split
  · exact .of_events [] rfl rfl rfl rfl rfl rfl rfl rfl rfl rfl rfl (by simp [advanceBit])
  · split
    · exact .of_events [] rfl rfl rfl rfl rfl rfl rfl rfl rfl rfl rfl (by simp [advanceEnd])
    · exact .of_events [.memRead (nextByteAddr s) (memValue (nextByteAddr s) s)] rfl rfl rfl rfl rfl rfl rfl rfl rfl
        rfl rfl rfl

theorem fallEdge_frame (s : State) : ActFrame s (fallEdge s) :=
  .of_events [.pinWrite s.regs.pinMask false] rfl rfl rfl rfl rfl rfl rfl rfl rfl rfl rfl rfl

theorem fallAct_frame (s : State) : ActFrame s (fallAct s) := (fallEdge_frame s).trans (advance_frame (fallEdge s))

theorem postAct_frame (s : State) : ActFrame s (postAct s) :=
  .of_events [.wdtReset, .irqUnlock] rfl rfl rfl rfl rfl rfl rfl rfl rfl rfl rfl (by simp [postAct])

theorem engineReset_frame (s : State) : ActFrame s (engineReset s) :=
  .of_events [] rfl rfl rfl rfl rfl rfl rfl rfl rfl rfl rfl (by simp)

theorem resetCycle_law (s : State) : CycleLaw s (resetCycle s) := cycle_law (engineReset_frame _)
theorem nopCycle_law (s : State) : CycleLaw s (nopCycle s) := cycle_law (ActFrame.refl _)
theorem acceptCycle_law (s : State) : CycleLaw s (acceptCycle s) := cycle_law (acceptAct_frame _)
theorem preCycle_law (s : State) : CycleLaw s (preCycle s) := cycle_law (preAct_frame _)
theorem lowPollCycle_law (s : State) : CycleLaw s (lowPollCycle s) := cycle_law (lowPollAct_frame _)
theorem riseCycle_law (s : State) : CycleLaw s (riseCycle s) := cycle_law (riseAct_frame _)
theorem highPollCycle_law (s : State) : CycleLaw s (highPollCycle s) := cycle_law (highPollAct_frame _)
theorem fallCycle_law (s : State) : CycleLaw s (fallCycle s) := cycle_law (fallAct_frame _)
theorem postCycle_law (s : State) : CycleLaw s (postCycle s) := cycle_law (postAct_frame _)

/-- Everything an engine step can be: the cycle of one micro-operation, with the guard that selects it (R89). -/
theorem engineStep_cases (s : State) :
    (s.inp.rst = true ∧ engineStep s = resetCycle s) ∨
    (s.inp.rst = false ∧
      ((s.pc = .idle ∧ s.inp.start = true ∧ engineStep s = acceptCycle s) ∨
       (s.pc = .idle ∧ s.inp.start = false ∧ engineStep s = nopCycle s) ∨
       (s.pc = .pre ∧ engineStep s = preCycle s) ∨
       (s.pc = .lowWait ∧ lowWaitOver s = true ∧ engineStep s = riseCycle s) ∨
       (s.pc = .lowWait ∧ lowWaitOver s = false ∧ engineStep s = lowPollCycle s) ∨
       (s.pc = .highWait ∧ highWaitOver (highTime s) s = true ∧ engineStep s = fallCycle s) ∨
       (s.pc = .highWait ∧ highWaitOver (highTime s) s = false ∧ engineStep s = highPollCycle s) ∨
       (s.pc = .post ∧ engineStep s = postCycle s) ∨
       ((s.pc = .code5 ∨ s.pc = .code6 ∨ s.pc = .code7) ∧ engineStep s = resetCycle s))) := by
  unfold engineStep
  cases hr : s.inp.rst
  · cases hp : s.pc
    · cases hs : s.inp.start <;> simp
    · simp
    · cases hl : lowWaitOver s <;> simp
    · cases hl : highWaitOver (highTime s) s <;> simp
    · simp
    · simp
    · simp
    · simp
  · simp

/-- Every engine step obeys the law of a cycle, whatever micro-operation it runs. -/
theorem engineStep_law (s : State) : CycleLaw s (engineStep s) := by
  rcases engineStep_cases s with ⟨-, h⟩ | ⟨-, h⟩
  · rw [h]; exact resetCycle_law s
  · rcases h with ⟨-, -, h⟩ | ⟨-, -, h⟩ | ⟨-, h⟩ | ⟨-, -, h⟩ | ⟨-, -, h⟩ | ⟨-, -, h⟩ | ⟨-, -, h⟩ | ⟨-, h⟩ | ⟨-, h⟩ <;> rw [h]
    exacts [acceptCycle_law s, nopCycle_law s, preCycle_law s, riseCycle_law s, lowPollCycle_law s, fallCycle_law s,
      highPollCycle_law s, postCycle_law s, resetCycle_law s]

/-- What ADVANCE can do: the next bit, the end, or the next byte (R126). -/
theorem advance_cases (s : State) :
    (s.regs.bitMask >>> 1 ≠ 0 ∧ advance s = advanceBit s) ∨
    (s.regs.bitMask >>> 1 = 0 ∧ onLastByte s = true ∧ advance s = advanceEnd s) ∨
    (s.regs.bitMask >>> 1 = 0 ∧ onLastByte s = false ∧ advance s = advanceByte s) := by
  unfold advance
  by_cases h : s.regs.bitMask >>> 1 = 0
  · cases ho : onLastByte s
    · exact .inr (.inr ⟨h, rfl, by rw [if_neg (by simp [h])]; rfl⟩)
    · exact .inr (.inl ⟨h, rfl, by rw [if_neg (by simp [h])]; rfl⟩)
  · exact .inl ⟨h, if_pos h⟩

/-! ### The wire symbols (R80) -/

/-- A symbol's phases run only cycles: whatever every cycle keeps, they keep. -/
theorem symbolHigh_induct {P : State → Prop} (t : CycleWord) (hreset : ∀ u, P u → P (resetCycle u))
    (hfall : ∀ u, P u → P (fallCycle u)) (hpoll : ∀ u, P u → P (highPollCycle u)) (n : Nat) {s : State} (h : P s) :
    P (symbolHigh t n s) := by
  induction n generalizing s with
  | zero => exact h
  | succ n ih =>
    unfold symbolHigh
    split
    · exact hreset s h
    · split
      · exact hfall s h
      · exact ih (hpoll s h)

theorem symbolLow_induct {P : State → Prop} (hpoll : ∀ u, P u → P (lowPollCycle u)) (n : Nat) {s : State} (h : P s) :
    P (symbolLow n s) := by
  induction n generalizing s with
  | zero => exact h
  | succ n ih =>
    unfold symbolLow
    split
    · exact ih (hpoll s h)
    · exact h

end Sys2Proof.Machine
end

