-- ==== Sys2Proof/Laws/Step.lean ====
section
/-! SUPPORT. The step: `exec` of the micro-operation a state selects is the engine's step, and everything a step that
answers a next state can be. -/

namespace Sys2Proof.Machine

/-- The micro-operation of R89, run by `exec`, is the engine's step. -/
theorem exec_nextMicroOp (s : State) : exec (nextMicroOp s) s = .next (engineStep s) := by
  unfold nextMicroOp decodeMicroOp phaseCondition engineStep
  cases hr : s.inp.rst
  · cases hp : s.pc
    · cases hs : s.inp.start <;> simp <;> rfl
    · rfl
    · cases hl : lowWaitOver s <;> simp <;> rfl
    · cases hl : highWaitOver (highTime s) s <;> simp <;> rfl
    · rfl
    · rfl
    · rfl
    · rfl
  · rfl

/-- Where the host has no move, `fetch` names the micro-operation. -/
theorem fetch_engine {s : State} (h : s.hostQueue = [] ∨ hostMayMove s = false) :
    fetch s = .run (nextMicroOp s) s := by
  unfold fetch
  rcases h with h | h
  · rw [h]
  · cases hq : s.hostQueue with
    | nil => rfl
    | cons m rest => simp [h]

/-- Where the host has no move, a step is the engine's. -/
theorem step_engine {s : State} (h : s.hostQueue = [] ∨ hostMayMove s = false) : step s = .next (engineStep s) := by
  unfold step; rw [fetch_engine h]; exact exec_nextMicroOp s

/-- The host moves only in IDLE, with RST and START at 0. -/
theorem hostMayMove_iff (s : State) :
    hostMayMove s = true ↔ s.pc = .idle ∧ s.inp.rst = false ∧ s.inp.start = false := by
  simp [hostMayMove, busy, and_assoc]

/-- Everything a step that answers a next state can be: a step of the engine, an operation the host runs, or one of
the host's own moves. -/
theorem step_next_cases {s t : State} (h : step s = .next t) :
    t = engineStep s ∨
    (∃ m rest, s.hostQueue = m :: rest ∧ hostMayMove s = true ∧
      ((∃ i, m = .run i ∧ hostMayRun i = true ∧ exec i { s with hostQueue := rest } = .next t) ∨
       (∃ a v, m = .store a v ∧ t = storeByte a v { s with hostQueue := rest }) ∨
       (∃ p, m = .setPinMode p ∧ t = setPinMode p { s with hostQueue := rest }) ∨
       (∃ p l, m = .writePin p l ∧ t = writePin p l { s with hostQueue := rest }) ∨
       (∃ a, m = .load a ∧ t = loadByte a { s with hostQueue := rest }) ∨
       (m = .teardown ∧ t = teardown { s with hostQueue := rest }))) := by
  cases hq : s.hostQueue with
  | nil => rw [step_engine (.inl hq)] at h; cases h; exact .inl rfl
  | cons m rest =>
    cases hm : hostMayMove s with
    | false => rw [step_engine (.inr hm)] at h; cases h; exact .inl rfl
    | true =>
      right
      refine ⟨m, rest, rfl, rfl, ?_⟩
      unfold step fetch at h
      rw [hq] at h
      simp only [hm, if_true] at h
      cases m with
      | run i =>
        unfold takeHostMove at h
        cases hi : hostMayRun i
        · simp [hi] at h
        · simp only [hi, if_true] at h
          exact .inl ⟨i, rfl, hi, h⟩
      | store a v => unfold takeHostMove at h; cases h; exact .inr (.inl ⟨a, v, rfl, rfl⟩)
      | setPinMode p => unfold takeHostMove at h; cases h; exact .inr (.inr (.inl ⟨p, rfl, rfl⟩))
      | writePin p l => unfold takeHostMove at h; cases h; exact .inr (.inr (.inr (.inl ⟨p, l, rfl, rfl⟩)))
      | load a => unfold takeHostMove at h; cases h; exact .inr (.inr (.inr (.inr (.inl ⟨a, rfl, rfl⟩))))
      | teardown => unfold takeHostMove at h; cases h; exact .inr (.inr (.inr (.inr (.inr ⟨rfl, rfl⟩))))

/-- A call that waits for the engine answers a next state exactly when the engine is idle and the driver alive. -/
theorem whenAlive_next {act : State → State} {s t : State} (h : whenAlive act s = .next t) :
    s.pc = .idle ∧ s.fb.dead = false ∧ t = act s := by
  unfold whenAlive busy at h
  by_cases hp : s.pc = .idle
  · cases hd : s.fb.dead <;> simp [hp, hd] at h
    exact ⟨hp, rfl, h.symm⟩
  · simp [hp] at h

theorem whenIdle_next {act : State → Host.Outcome State Fault Refusal} {s t : State}
    (h : whenIdle act s = .next t) : s.pc = .idle ∧ act s = .next t := by
  unfold whenIdle busy at h
  by_cases hp : s.pc = .idle
  · simp [hp] at h; exact ⟨hp, h⟩
  · simp [hp] at h

theorem whenAlive_ready {act : State → State} {s : State} (hp : s.pc = .idle) (hd : s.fb.dead = false) :
    whenAlive act s = .next (act s) := by simp [whenAlive, busy, hp, hd]

theorem whenIdle_ready {act : State → Host.Outcome State Fault Refusal} {s : State} (hp : s.pc = .idle) :
    whenIdle act s = act s := by simp [whenIdle, busy, hp]

end Sys2Proof.Machine
end

