-- ==== Sys2Proof/Laws/Run.lean ====
section
/-! SUPPORT. Runs of several steps, what no reset on the ports means for the steps that follow, and what a run of
polls leaves. -/

namespace Sys2Proof.Machine

theorem run_zero (s : State) : run 0 s = .next s := rfl

theorem run_succ {s t : State} (n : Nat) (h : step s = .next t) : run (n + 1) s = run n t := by
  rw [run, h]

theorem run_succ_next {s u : State} {n : Nat} (h : run (n + 1) s = .next u) :
    ∃ t, step s = .next t ∧ run n t = .next u := by
  rw [run] at h
  cases hs : step s with
  | next t => rw [hs] at h; exact ⟨t, rfl, h⟩
  | fault r => rw [hs] at h; cases h
  | refused r => rw [hs] at h; cases h

/-- Runs compose. -/
theorem run_add {s t : State} (m n : Nat) (h : run m s = .next t) : run (m + n) s = run n t := by
  induction m generalizing s with
  | zero => cases h; rw [Nat.zero_add]
  | succ m ih =>
    obtain ⟨u, hu, hr⟩ := run_succ_next h
    rw [Nat.succ_add, run_succ (m + n) hu, ih hr]

/-- A busy engine moves, not the host. -/
theorem step_busy {s : State} (h : s.pc ≠ .idle) : step s = .next (engineStep s) :=
  step_engine (.inr (by
    cases hm : hostMayMove s with
    | false => rfl
    | true => exact absurd ((hostMayMove_iff s).1 hm).1 h))

/-- A command strobe in IDLE leaves no room for the host either. -/
theorem step_strobe {s : State} (h : s.inp.start = true) : step s = .next (engineStep s) :=
  step_engine (.inr (by
    cases hm : hostMayMove s with
    | false => rfl
    | true => exact absurd ((hostMayMove_iff s).1 hm).2.2 (by simp [h])))

/-- Where no reset is scheduled, none comes with the next step. -/
theorem NoReset.next {s t : State} (h : NoReset s) (hl : CycleLaw s t) : NoReset t := by
  obtain ⟨h0, h1⟩ := h
  unfold NoReset
  rw [hl.inp, hl.upcoming]
  unfold nextInputs
  cases hu : s.upcoming with
  | nil => simp
  | cons i rest =>
    rw [hu] at h1
    exact ⟨h1 i (by simp), fun j hj => h1 j (by simp at hj ⊢; exact .inr hj)⟩

theorem NoReset.engineStep {s : State} (h : NoReset s) : NoReset (engineStep s) := h.next (engineStep_law s)

/-! ### Polls -/

/-- What a run of polls changes: W, the clock side of the state, and nothing else that the waveform depends on. -/
structure Polled (k : Nat) (s u : State) : Prop where
  pc : u.pc = s.pc
  regs : u.regs = { s.regs with w := u.regs.w }
  pin : u.pin = s.pin
  mem : u.mem = s.mem
  ccount : u.ccount = s.ccount + BitVec.ofNat 32 k
  irqDisable : u.irqDisable = s.irqDisable
  noReset : NoReset u
  history : ∃ l, u.history = s.history ++ l

/-- No poll yet. -/
theorem Polled.refl {s : State} (h : NoReset s) : Polled 0 s s :=
  ⟨rfl, rfl, rfl, rfl, by simp, rfl, h, [], by simp⟩

/-- Polls add up. -/
theorem Polled.trans {j k : Nat} {s t u : State} (h : Polled j s t) (g : Polled k t u) : Polled (j + k) s u := by
  obtain ⟨l, hl⟩ := h.history
  obtain ⟨m, hm⟩ := g.history
  refine ⟨g.pc.trans h.pc, ?_, g.pin.trans h.pin, g.mem.trans h.mem, ?_, g.irqDisable.trans h.irqDisable, g.noReset,
    l ++ m, by simp [hm, hl]⟩
  · rw [g.regs, h.regs]
  · rw [g.ccount, h.ccount, BitVec.add_assoc]
    congr 1
    apply BitVec.eq_of_toNat_eq; simp [BitVec.toNat_add, BitVec.toNat_ofNat]

/-- The cycle of LOW_POLL and of HIGH_POLL, which do the same. -/
theorem highPollCycle_eq (s : State) : highPollCycle s = lowPollCycle s := rfl

/-- One poll. -/
theorem lowPollCycle_polled {s : State} (h : NoReset s) : Polled 1 s (lowPollCycle s) where
  pc := waitTick_pc (cycleCount (beginCycle s))
  regs := waitTick_regs (cycleCount (beginCycle s))
  pin := waitTick_pin (cycleCount (beginCycle s))
  mem := waitTick_mem (cycleCount (beginCycle s))
  ccount := (lowPollCycle_law s).ccount
  irqDisable := waitTick_irqDisable (cycleCount (beginCycle s))
  noReset := h.next (lowPollCycle_law s)
  history := let ⟨_, hl⟩ := (lowPollCycle_law s).history; ⟨_, hl⟩

/-- The elapsed count moves with the clock, modulo `2^CW`. -/
theorem Polled.elapsed {k : Nat} {s u : State} (h : Polled k s u) : elapsed u = elapsed s + BitVec.ofNat 32 k := by
  unfold Machine.elapsed
  rw [h.regs, h.ccount]
  apply BitVec.eq_of_toNat_eq
  simp [BitVec.toNat_add, BitVec.toNat_sub, BitVec.toNat_ofNat]
  omega

theorem Polled.elapsed_toNat {k : Nat} {s u : State} (h : Polled k s u) (hk : (Machine.elapsed s).toNat + k < 2 ^ 32) :
    (Machine.elapsed u).toNat = (Machine.elapsed s).toNat + k := by
  rw [h.elapsed, BitVec.toNat_add, BitVec.toNat_ofNat]
  omega

theorem Polled.highTime {k : Nat} {s u : State} (h : Polled k s u) : highTime u = highTime s := by
  unfold Machine.highTime highTimeOf dataBit; rw [h.regs]

/-- A low wait runs its polls: `k` of them as long as the elapsed count stays below TTOT (R127). -/
theorem low_run {s : State} (hp : s.pc = .lowWait) (hn : NoReset s) (k : Nat)
    (hk : (elapsed s).toNat + k ≤ s.regs.ttot.toNat ∨ k = 0) : ∃ u, run k s = .next u ∧ Polled k s u := by
  induction k with
  | zero => exact ⟨s, rfl, .refl hn⟩
  | succ k ih =>
    obtain ⟨u, hu, hpo⟩ := ih (by omega)
    have ht := s.regs.ttot.isLt
    have he := hpo.elapsed_toNat (by omega)
    have hover : lowWaitOver u = false := by
      refine decide_eq_false ?_
      rw [hpo.regs, BitVec.le_def, he]
      show ¬ s.regs.ttot.toNat ≤ _
      omega
    have hstep : step u = .next (lowPollCycle u) := by
      have hpu : u.pc = .lowWait := hpo.pc.trans hp
      rw [step_busy (by simp [hpu])]
      congr 1; unfold engineStep; simp [hpo.noReset.1, hpu, hover]
    exact ⟨_, by rw [run_add k 1 hu, run_succ 0 hstep]; rfl, hpo.trans (lowPollCycle_polled hpo.noReset)⟩

/-- A high wait runs its polls the same way (R127). -/
theorem high_run {s : State} (hp : s.pc = .highWait) (hn : NoReset s) (k : Nat)
    (hk : (elapsed s).toNat + k ≤ (highTime s).toNat ∨ k = 0) : ∃ u, run k s = .next u ∧ Polled k s u := by
  induction k with
  | zero => exact ⟨s, rfl, .refl hn⟩
  | succ k ih =>
    obtain ⟨u, hu, hpo⟩ := ih (by omega)
    have ht := (highTime s).isLt
    have he := hpo.elapsed_toNat (by omega)
    have hover : highWaitOver (highTime u) u = false := by
      refine decide_eq_false ?_
      rw [hpo.highTime, BitVec.le_def, he]
      omega
    have hstep : step u = .next (highPollCycle u) := by
      have hpu : u.pc = .highWait := hpo.pc.trans hp
      rw [step_busy (by simp [hpu])]
      congr 1; unfold engineStep; simp [hpo.noReset.1, hpu, hover]
    exact ⟨_, by rw [run_add k 1 hu, run_succ 0 hstep]; rfl, hpo.trans (lowPollCycle_polled hpo.noReset)⟩

end Sys2Proof.Machine
end

