-- ==== Sys2Proof/Laws/Host.lean ====
section
/-! SUPPORT. The host calls: their common frame, the framebuffer's bytes after a store, and the canonical form. -/

namespace Sys2Proof.Machine

/-- A state that differs only in memory, the framebuffer, what was handed back and the draws has the frame. -/
theorem HostCallFrame.of_update (s t : State)
    (h : t = { s with mem := t.mem, fb := t.fb, ret := t.ret, draws := t.draws }) : HostCallFrame s t := by
  rw [h]
  exact ⟨rfl, rfl, rfl, rfl, rfl, rfl, rfl, rfl, rfl, rfl, rfl, rfl, rfl, rfl, rfl, rfl⟩

/-- Framebuffer offsets add up, modulo the address space. -/
theorem fbAddr_add (i j : Nat) (s : State) : fbAddr (i + j) s = fbAddr i s + BitVec.ofNat 32 j := by
  unfold fbAddr
  apply BitVec.eq_of_toNat_eq
  simp [BitVec.toNat_add, BitVec.toNat_ofNat]
  omega

/-- Byte `j` of bytes stored from a framebuffer offset on. -/
theorem bufAt_storeFb (s : State) (off : Nat) (bs : List Byte) (hm : s.mem.wf = true) (hl : bs.length ≤ 2 ^ 32)
    (j : Nat) (hj : j < bs.length) : bufAt (storeFb off bs s) (off + j) = bs[j] := by
  have h : fbAddr (off + j) (storeFb off bs s) = fbAddr off s + BitVec.ofNat 32 j := fbAddr_add off j s
  unfold bufAt
  rw [h]
  exact Memory.read_writeBytes_inside bs s.mem (fbAddr off s) j hm hl hj

/-- A store from a framebuffer offset on changes nothing outside its bytes. -/
theorem storeFb_outside (s : State) (off : Nat) (bs : List Byte) {x : Nat}
    (hx : OutsideRegion (fbAddr off s) bs.length x) : (storeFb off bs s).mem.read x = s.mem.read x :=
  Memory.read_writeBytes_outside bs s.mem (fbAddr off s) x hx

/-- The framebuffer's bytes as a list. -/
theorem getD_fbBytes (s : State) (j : Nat) (hj : j < s.fb.len) : (fbBytes s).getD j 0 = bufAt s j := by
  have hj' : j < (fbBytes s).length := by simp [fbBytes, hj]
  rw [List.getD_eq_getElem _ _ hj']
  simp only [fbBytes, Memory.getElem_readBytes]
  rfl

/-- A store of bytes keeps memory's canonical form. -/
theorem storeBytes_wf (a : Addr) (bs : List Byte) {s : State} (h : s.mem.wf = true) :
    (storeBytes a bs s).mem.wf = true := Memory.wf_writeBytes bs s.mem a h

@[simp] theorem length_unstatedBytes (n len : Nat) : (unstatedBytes n len).length = len := by simp [unstatedBytes]

/-- A lost framebuffer leaves every byte outside its region alone. -/
theorem loseBuffer_outside (s : State) {x : Nat} (hx : OutsideRegion s.fb.base s.fb.len x) :
    (loseBuffer s).mem.read x = s.mem.read x :=
  Memory.read_writeBytes_outside _ s.mem s.fb.base x (fun j hj => hx j (by simpa using hj))

/-- A lost framebuffer keeps memory's canonical form. -/
theorem loseBuffer_wf {s : State} (h : s.mem.wf = true) : (loseBuffer s).mem.wf = true :=
  Memory.wf_writeBytes _ s.mem s.fb.base h

/-- Everything a teardown can change: memory, the framebuffer, what was handed back and the draws (R163). -/
theorem teardown_frame (s : State) : HostCallFrame s (teardown s) := .of_update _ _ rfl

/-- With no buffer the framebuffer's invariant holds. -/
theorem teardown_framebufferInv (s : State) : FramebufferInv (teardown s) := ⟨rfl, Nat.zero_le _⟩

/-- Everything a byte read of the host can change: what was handed back (R60). -/
theorem loadByte_frame (a : Addr) (s : State) : HostCallFrame s (loadByte a s) := .of_update _ _ rfl

/-- Reset memory has the canonical form. -/
theorem reset_mem_wf : State.reset.mem.wf = true := rfl

/-- The reorder keeps the number of bytes. -/
@[simp] theorem length_swapTriples (l : List Byte) : (swapTriples l).length = l.length := by
  fun_induction swapTriples l <;> simp_all

end Sys2Proof.Machine
end

