-- ==== Sys2Proof/Laws/PerInstr.lean ====
section
/-! SUPPORT. Per-instruction family EncodeFits: the word that `encode` gives an instruction has no bit above the width
it gives beside it (R80, R86, R89). Where there is no bit pattern (R90) nothing is claimed. -/

namespace Sys2Proof.Laws.EncodeFits

/-- The word of an instruction fits its format's width. -/
def Statement (i : Instr) : Prop := ∀ n w : Nat, encode i = some (n, w) → w < 2 ^ n

/-- Where an instruction has a bit pattern that fits, the statement holds. -/
theorem of_some {i : Instr} {n w : Nat} (h : encode i = some (n, w)) (hw : w < 2 ^ n) : Statement i := by
  intro n' w' h'
  rw [h] at h'
  cases h'
  exact hw

/-- Where an instruction has no bit pattern, nothing is claimed. -/
theorem of_none {i : Instr} (h : encode i = none) : Statement i := by
  intro n w h'
  rw [h] at h'
  cases h'

theorem transmit (pinMask : PinMask) (base : Addr) (length : Len) : Statement (.transmit pinMask base length) :=
  of_some rfl (BitVec.isLt _)
theorem nopCmd : Statement .nopCmd := of_some rfl (BitVec.isLt _)
theorem sym0 : Statement .sym0 := of_some rfl (by decide)
theorem sym1 : Statement .sym1 := of_some rfl (by decide)
theorem reset : Statement .reset := of_some rfl (by decide)
theorem nop : Statement .nop := of_some rfl (by decide)
theorem accept : Statement .accept := of_some rfl (by decide)
theorem pre : Statement .pre := of_some rfl (by decide)
theorem lowPoll : Statement .lowPoll := of_some rfl (by decide)
theorem rise : Statement .rise := of_some rfl (by decide)
theorem highPoll : Statement .highPoll := of_some rfl (by decide)
theorem fall : Statement .fall := of_some rfl (by decide)
theorem advance : Statement .advance := of_none rfl
theorem post : Statement .post := of_some rfl (by decide)
theorem unreachablePc5 : Statement .unreachablePc5 := of_some rfl (by decide)
theorem unreachablePc6 : Statement .unreachablePc6 := of_some rfl (by decide)
theorem unreachablePc7 : Statement .unreachablePc7 := of_some rfl (by decide)
theorem irqLock : Statement .irqLock := of_none rfl
theorem irqUnlock : Statement .irqUnlock := of_none rfl
theorem gpioWrite (mask : PinMask) (level : Bool) : Statement (.gpioWrite mask level) := of_none rfl
theorem wdtReset : Statement .wdtReset := of_none rfl
theorem waitTick : Statement .waitTick := of_none rfl
theorem cycleCount : Statement .cycleCount := of_none rfl
theorem memRead (addr : Addr) : Statement (.memRead addr) := of_none rfl
theorem fbInitialize (bytes : List Byte) : Statement (.fbInitialize bytes) := of_none rfl
theorem overwriteLed (index : Nat) (r g b : Byte) : Statement (.overwriteLed index r g b) := of_none rfl
theorem overwriteRange (startIndex : Nat) (bytes : List Byte) : Statement (.overwriteRange startIndex bytes) :=
  of_none rfl
theorem mergeLed (index : Nat) (r g b : Byte) : Statement (.mergeLed index r g b) := of_none rfl
theorem mergeRange (startIndex : Nat) (bytes : List Byte) : Statement (.mergeRange startIndex bytes) := of_none rfl
theorem readLed (index : Nat) : Statement (.readLed index) := of_none rfl
theorem shiftRight (ledCount : Nat) : Statement (.shiftRight ledCount) := of_none rfl
theorem shiftLeft (ledCount : Nat) : Statement (.shiftLeft ledCount) := of_none rfl
theorem toWireOrderInPlace (bytes : ByteSeq) : Statement (.toWireOrderInPlace bytes) := of_none rfl
theorem asWireOrder (bytes : ByteSeq) : Statement (.asWireOrder bytes) := of_none rfl
theorem flush (pinMask : PinMask) : Statement (.flush pinMask) := of_none rfl
theorem writeRgb (pinMask : PinMask) (bytes : ByteSeq) (n : Len) : Statement (.writeRgb pinMask bytes n) :=
  of_none rfl
theorem writeGrb (pinMask : PinMask) (bytes : ByteSeq) (n : Len) : Statement (.writeGrb pinMask bytes n) :=
  of_none rfl

end Sys2Proof.Laws.EncodeFits
end

