-- ==== Sys2Proof/Tests/Slice0.lean ====
section
/-! SUPPORT. The model's own tests, one step each, expected results from the spec's worked examples (spec file 95 and
the Example lines of the rules), and the witnesses that the hypotheses of the statements can be met. -/

namespace Sys2Proof.Tests

open Sys2Proof Sys2Proof.Machine

/-! ### Helpers -/

/-- The outcome is a next state with this property. -/
def answers (o : Host.Outcome State Fault Refusal) (p : State → Bool) : Bool :=
  match o with
  | .next t => p t
  | .fault _ => false
  | .refused _ => false

/-- The outcome is this refusal. -/
def refuses (o : Host.Outcome State Fault Refusal) (r : Refusal) : Bool :=
  match o with
  | .next _ => false
  | .fault _ => false
  | .refused q => decide (q = r)

/-- The registers of a transmission of one byte from 0x100 on pin 4 at 80 MHz (T1), at bit 7. -/
def oneByte : Regs :=
  { Regs.zero with
    pinMask := 0x0010, base := 0x100, length := 1, t0h := 28, t1h := 56, ttot := 100, cur := 0x80, bitMask := 0x80 }

/-- A busy engine in a phase, with 0x80 at 0x100. -/
def engineAt (p : Phase) (r : Regs) (c : CycleWord) : State :=
  { State.reset with pc := p, irqDisable := true, regs := r, ccount := c, mem := [(0x100, 0x80)] }

/-- An idle engine with TRANSMIT of `n` bytes at 0x100 on pin 4 presented, START_INIT = 0 and c(0) = 1000 (T1). -/
def presented (n : Len) : State :=
  { State.reset with
    inp := { Inputs.quiet 80 with start := true, pinMaskIn := 0x0010, baseIn := 0x100, lengthIn := n }
    mem := [(0x100, 0x80)], ccount := 1000, draws := { startInits := [0], allocs := [], count := 0 } }

/-- An idle engine whose framebuffer lies at 0x100 and holds these bytes, none of them zero. -/
def withBuffer (bytes : List Byte) : State :=
  { State.reset with
    mem := Memory.writeBytes [] 0x100 bytes, fb := { base := 0x100, len := bytes.length, dead := false } }

/-- The framebuffer's bytes after a call. -/
def bufferIs (o : Host.Outcome State Fault Refusal) (l : List Byte) : Bool := answers o (fun t => decide (fbBytes t = l))

/-- The RST input raised. -/
def inReset (s : State) : State := { s with inp := { s.inp with rst := true } }

/-- An allocation failure has ended the driver instance, which had no buffer. -/
def driverDead : State := { State.reset with fb := { base := 0, len := 0, dead := true } }

/-! ### Well-formedness and decoding -/

/-- The one check: a caller's byte sequence that runs past the last address is ill formed. -/
theorem test_wf_refuses_past_the_end :
    (Instr.toWireOrderInPlace { addr := 0xFFFFFFFF, len := 2 }).wf = false ∧
    (Instr.asWireOrder { addr := 0xFFFFFFFF, len := 2 }).wf = false ∧
    (Instr.writeRgb 1 { addr := 0xFFFFFFFF, len := 2 } 2).wf = false ∧
    (Instr.writeGrb 1 { addr := 0xFFFFFFFF, len := 2 } 2).wf = false := by decide

theorem test_wf_accepts_up_to_the_end :
    (Instr.toWireOrderInPlace { addr := 0xFFFFFFFF, len := 1 }).wf = true ∧
    (Instr.transmit 0 0xFFFFFFFF 2).wf = true := by decide

/-- Command words, written out field by field from R86: T2, T15 and the program words of P2 to P4. -/
theorem test_decode_transmit :
    decodeTableWord 81 0b1_0000000000000010_00000000000000000000000001000000_00000000000000000000000000000001 =
      some (.transmit 0x0002 0x40 1) ∧
    decodeTableWord 81 0x10001FFFFFFFF00000002 = some (.transmit 0x0001 0xFFFFFFFF 2) ∧
    decodeTableWord 81 0x100200000300000000006 = some (.transmit 0x0020 0x3000 6) ∧
    decodeTableWord 88 0x100040000050000000003 = some (.transmit 0x0004 0x500 3) := by decide

/-- OP = 0 is no command, whatever the other fields hold (R87). -/
theorem test_decode_nop_command :
    decodeTableWord 81 0b0_1111111111111111_11111111111111111111111111111111_11111111111111111111111111111111 =
      some .nopCmd ∧ decodeTableWord 81 0 = some .nopCmd := by decide

theorem test_decode_symbols : decodeTableWord 1 0b0 = some .sym0 ∧ decodeTableWord 1 0b1 = some .sym1 := by decide

/-- The 5-bit keys of R89, RST ++ pc ++ COND, a bit that is not looked at both ways. -/
theorem test_decode_micro_operations :
    decodeTableWord 5 0b00000 = some .nop ∧ decodeTableWord 5 0b00001 = some .accept ∧
    decodeTableWord 5 0b00010 = some .pre ∧ decodeTableWord 5 0b00011 = some .pre ∧
    decodeTableWord 5 0b00100 = some .lowPoll ∧ decodeTableWord 5 0b00101 = some .rise ∧
    decodeTableWord 5 0b00110 = some .highPoll ∧ decodeTableWord 5 0b00111 = some .fall ∧
    decodeTableWord 5 0b01000 = some .post ∧ decodeTableWord 5 0b01001 = some .post := by decide

theorem test_decode_unreachable_and_reset :
    decodeTableWord 5 0b01010 = some .unreachablePc5 ∧ decodeTableWord 5 0b01011 = some .unreachablePc5 ∧
    decodeTableWord 5 0b01100 = some .unreachablePc6 ∧ decodeTableWord 5 0b01101 = some .unreachablePc6 ∧
    decodeTableWord 5 0b01110 = some .unreachablePc7 ∧ decodeTableWord 5 0b01111 = some .unreachablePc7 ∧
    decodeTableWord 8 0b10000 = some .reset ∧ decodeTableWord 8 0b11111 = some .reset := by decide

/-- Rejections by name. -/
theorem test_decode_rejects :
    decodeWord 16 0 = .error (.noSuchFormat 16) ∧ decodeWord 1 2 = .error (.bitsAboveWidth 1) ∧
    decodeWord 88 0x200000000000000000000 = .error (.bitsAboveWidth 88) := by decide

/-- The command word of T1 as bytes, the least significant first (log entry 9). -/
theorem test_decode_bytes :
    decodeBytes [1, 0, 0, 0, 0, 1, 0, 0, 0x10, 0, 1] = .ok (.transmit 0x0010 0x100 1) := by decide

/-! ### The command words and the micro-operations -/

/-- R100's operands and T1's timing at 80 MHz. -/
theorem test_transmit_accepted :
    answers (exec (.transmit 0x0010 0x100 1) State.reset)
      (fun t => decide (t.pc = .pre ∧ t.irqDisable = true ∧ t.regs.pinMask = 0x0010 ∧ t.regs.base = 0x100 ∧
        t.regs.length = 1 ∧ t.regs.t0h = 28 ∧ t.regs.t1h = 56 ∧ t.regs.ttot = 100)) = true := by decide

/-- T13: a command in LOW_WAIT is not looked at. -/
theorem test_transmit_ignored_while_busy :
    answers (exec (.transmit 0xFFFF 0 9) (engineAt .lowWait oneByte 1))
      (fun t => decide (t.pc = .lowWait ∧ t.regs.pinMask = 0x0010 ∧ t.regs.length = 1)) = true := by decide

/-- T14: an idle step appends nothing, only CCOUNT advances. -/
theorem test_nop_command_idle :
    answers (exec .nopCmd State.reset) (fun t => decide (t.pc = .idle ∧ t.history = [] ∧ t.ccount = 1)) = true := by
  decide

theorem test_nop_idle :
    answers (exec .nop State.reset) (fun t => decide (t.pc = .idle ∧ t.history = [] ∧ t.ccount = 1)) = true := by
  decide

theorem test_accept_event :
    answers (exec .accept (presented 1))
      (fun t => decide (t.history = [{ step := 0, kind := .irqLock }] ∧ t.ccount = 1001)) = true := by decide

/-- T1: PRE appends WdtReset and MemRead(0x100, 0x80). -/
theorem test_pre_fetches :
    answers (exec .pre (engineAt .pre { oneByte with cur := 0, bitMask := 0 } 1001))
      (fun t => decide (t.history.map (·.kind) = [.wdtReset, .memRead 0x100 0x80] ∧ t.regs.cur = 0x80 ∧
        t.regs.bitMask = 0x80 ∧ t.pc = .lowWait)) = true := by decide

/-- T4: with LENGTH = 0 there is no fetch. -/
theorem test_pre_empty :
    answers (exec .pre (engineAt .pre { oneByte with length := 0 } 1001))
      (fun t => decide (t.history.map (·.kind) = [.wdtReset] ∧ t.pc = .post)) = true := by decide

theorem test_low_poll_counts :
    answers (exec .lowPoll (engineAt .lowWait { oneByte with startTime := 1002 } 1003))
      (fun t => decide (t.regs.w = 1 ∧ t.regs.startTime = 1002 ∧ t.pc = .lowWait ∧ t.history = [])) = true := by
  decide

/-- The example of R122. -/
theorem test_rise_example :
    answers (exec .rise (engineAt .lowWait { oneByte with startTime := 1002, w := 7 } 1102))
      (fun t => decide (t.history.map (·.kind) = [.pinWrite 0x0010 true] ∧ t.regs.startTime = 1102 ∧
        t.regs.w = 0 ∧ t.pc = .highWait ∧ t.pin = 0x0010)) = true := by decide

/-- T7's threshold: the eleventh unsuccessful poll resets the watchdog. -/
theorem test_high_poll_watchdog :
    answers (exec .highPoll { engineAt .highWait { oneByte with w := 10 } 11 with
        params := { Params.recommended with wdtThresh := 10 } })
      (fun t => decide (t.regs.w = 0 ∧ t.history.map (·.kind) = [.wdtReset] ∧ t.out.wdtReset = true)) = true := by
  decide

/-- The example of R124: the next bit of the same byte. -/
theorem test_fall_example :
    answers (exec .fall { engineAt .highWait { oneByte with startTime := 1002 } 1058 with pin := 0x0013 })
      (fun t => decide (t.history.map (·.kind) = [.pinWrite 0x0010 false] ∧ t.regs.bitMask = 0x40 ∧
        t.pc = .lowWait ∧ t.pin = 0x0003 ∧ t.regs.startTime = 1002)) = true := by decide

/-- T15: the address of the next byte wraps. -/
theorem test_fall_address_wraps :
    answers (exec .fall (engineAt .highWait { oneByte with base := 0xFFFFFFFF, length := 2, bitMask := 1 } 60))
      (fun t => decide (t.history.map (·.kind) = [.pinWrite 0x0010 false, .memRead 0 0] ∧ t.regs.byteIdx = 1)) =
      true := by decide

/-- The example of R126: the next byte, and with LENGTH = 1 the end. -/
theorem test_advance_next_byte :
    answers (exec .advance { engineAt .highWait { oneByte with base := 0x200, length := 3, bitMask := 1 } 60 with
        mem := [(0x201, 0xFF)] })
      (fun t => decide (t.regs.cur = 0xFF ∧ t.regs.byteIdx = 1 ∧ t.regs.bitMask = 0x80 ∧ t.pc = .lowWait ∧
        t.history.map (·.kind) = [.memRead 0x201 0xFF] ∧ t.ccount = 60)) = true := by decide

theorem test_advance_end :
    answers (exec .advance (engineAt .highWait { oneByte with bitMask := 1 } 60))
      (fun t => decide (t.regs.bitMask = 0 ∧ t.pc = .post)) = true := by decide

/-- T1: POST appends WdtReset, then IrqUnlock. -/
theorem test_post_events :
    answers (exec .post (engineAt .post oneByte 1731))
      (fun t => decide (t.history.map (·.kind) = [.wdtReset, .irqUnlock] ∧ t.pc = .idle ∧ t.irqDisable = false)) =
      true := by decide

/-- T11: RST in mid-symbol leaves the pin high and appends nothing. -/
theorem test_reset_mid_symbol :
    answers (exec .reset { engineAt .highWait oneByte 1040 with pin := 0x0010 })
      (fun t => decide (t.pc = .idle ∧ t.irqDisable = false ∧ t.pin = 0x0010 ∧ t.history = [])) = true := by decide

/-- R93: an unreachable `pc` behaves as RESET. -/
theorem test_unreachable_reset :
    answers (exec .unreachablePc5 (engineAt .code5 oneByte 5)) (fun t => decide (t.pc = .idle)) = true ∧
    answers (exec .unreachablePc6 (engineAt .code6 oneByte 5)) (fun t => decide (t.pc = .idle)) = true ∧
    answers (exec .unreachablePc7 (engineAt .code7 oneByte 5)) (fun t => decide (t.pc = .idle)) = true := by decide

/-- T5's timing (all zero): a high of one step, and the next rising edge two steps after this one. -/
theorem test_symbols_of_zero_timing :
    symbolHigh 0 3 (riseCycle (engineAt .lowWait { oneByte with t0h := 0, t1h := 0, ttot := 0 } 502)) =
      fallCycle (riseCycle (engineAt .lowWait { oneByte with t0h := 0, t1h := 0, ttot := 0 } 502)) ∧
    answers (exec .sym1 (engineAt .lowWait { oneByte with t0h := 0, t1h := 0, ttot := 0 } 502))
      (fun t => decide (t.pc = .lowWait ∧ t.ccount = 504 ∧ t.regs.bitMask = 0x40)) = true := by decide

/-- The last symbol ends in POST: there is no low wait after it (R85). -/
theorem test_symbol_last :
    answers (exec .sym0 (engineAt .lowWait { oneByte with t0h := 2, ttot := 4, bitMask := 1 } 502))
      (fun t => decide (t.pc = .post ∧ t.ccount = 505 ∧
        t.history.map (·.kind) = [.pinWrite 0x0010 true, .pinWrite 0x0010 false])) = true := by decide

/-! ### The primitives -/

theorem test_irq_lock :
    answers (exec .irqLock State.reset)
      (fun t => decide (t.irqDisable = true ∧ t.history = [{ step := 0, kind := .irqLock }])) = true := by decide

theorem test_irq_unlock :
    answers (exec .irqUnlock (engineAt .post oneByte 9))
      (fun t => decide (t.irqDisable = false ∧ t.history = [{ step := 0, kind := .irqUnlock }])) = true := by decide

/-- The example of R143, and a mask of 0 (T8). -/
theorem test_gpio_write :
    answers (exec (.gpioWrite 0x0010 true) { State.reset with pin := 0x0003 }) (fun t => decide (t.pin = 0x0013)) =
      true ∧
    answers (exec (.gpioWrite 0 true) { State.reset with pin := 0x0003 })
      (fun t => decide (t.pin = 0x0003 ∧ t.history.length = 1)) = true := by decide

theorem test_wdt_reset :
    answers (exec .wdtReset { State.reset with wdtElapsed := 9 })
      (fun t => decide (t.wdtElapsed = 0 ∧ t.out.wdtReset = true)) = true := by decide

/-- R147's example with WDT_THRESH = 10: the tenth poll is counted, the eleventh is not. -/
theorem test_wait_tick :
    answers (exec .waitTick { State.reset with
        params := { Params.recommended with wdtThresh := 10 }, regs := { Regs.zero with w := 9 } })
      (fun t => decide (t.regs.w = 10 ∧ t.history = [])) = true ∧
    answers (exec .waitTick { State.reset with
        params := { Params.recommended with wdtThresh := 10 }, regs := { Regs.zero with w := 10 } })
      (fun t => decide (t.regs.w = 0 ∧ t.history.length = 1)) = true := by decide

theorem test_cycle_count :
    answers (exec .cycleCount { State.reset with ccount := 0xFFFFFFFF })
      (fun t => decide (t.sample = 0xFFFFFFFF ∧ t.ccount = 0xFFFFFFFF)) = true := by decide

theorem test_mem_read :
    answers (exec (.memRead 0x100) (engineAt .idle oneByte 0))
      (fun t => decide (memRdataPort t = 0x80 ∧ memAddrPort t = 0x100)) = true := by decide

/-! ### The host's calls -/

/-- L1.7, with the region at 0x3000. -/
theorem test_initialize_truncates :
    answers (exec (.fbInitialize [1, 2, 3, 4, 5]) { State.reset with
        draws := { startInits := [], allocs := [some 0x3000], count := 0 } })
      (fun t => decide (t.fb.len = 3 ∧ t.fb.base = 0x3000 ∧ fbBytes t = [1, 2, 3])) = true := by decide

/-- R166: the distinct signal, and a dead driver. -/
theorem test_initialize_fails :
    answers (exec (.fbInitialize [1, 2, 3]) { State.reset with
        draws := { startInits := [], allocs := [none], count := 0 } })
      (fun t => decide (t.ret = .allocFailed ∧ t.fb.dead = true ∧ t.mem = [])) = true := by decide

/-- L1.1 and L1.8. -/
theorem test_overwrite_led :
    bufferIs (exec (.overwriteLed 1 0x12 0x34 0x56) (withBuffer [1, 2, 3, 4, 5, 6])) [1, 2, 3, 0x34, 0x12, 0x56] =
      true ∧
    bufferIs (exec (.overwriteLed 2 1 1 1) (withBuffer [1, 2, 3, 4, 5, 6])) [1, 2, 3, 4, 5, 6] = true := by decide

/-- L1.4 and H6. -/
theorem test_overwrite_range :
    bufferIs (exec (.overwriteRange 1 [7, 8, 9, 10]) (withBuffer [1, 1, 1, 1, 1, 1])) [1, 1, 1, 7, 8, 9] = true ∧
    bufferIs (exec (.overwriteRange 2 [9]) (withBuffer [1, 2, 3, 4, 5, 6])) [1, 2, 3, 4, 5, 6] = true := by decide

/-- L1.2 and H9. -/
theorem test_merge_led :
    bufferIs (exec (.mergeLed 0 0x10 0xF0 0x80) { State.reset with
        mem := [(0x100, 0x0F), (0x101, 0x01)], fb := { base := 0x100, len := 3, dead := false } })
      [0xFF, 0x11, 0x80] = true ∧
    bufferIs (exec (.mergeLed 0 0xFF 0x00 0x01) { State.reset with
        mem := [(0x101, 0xFF), (0x102, 0x10)], fb := { base := 0x100, len := 3, dead := false } })
      [0x00, 0xFF, 0x11] = true := by decide

/-- L1.4. -/
theorem test_merge_range :
    bufferIs (exec (.mergeRange 0 [8, 8, 8, 8]) (withBuffer [1, 2, 4])) [9, 10, 12] = true := by decide

/-- R171's example and L1.8. -/
theorem test_read_led :
    answers (exec (.readLed 0) (withBuffer [20, 10, 30])) (fun t => decide (t.ret = .led 10 20 30)) = true ∧
    answers (exec (.readLed 1) (withBuffer [20, 10, 30])) (fun t => decide (t.ret = .empty)) = true := by decide

/-- L1.3 and H4. -/
theorem test_shift_right :
    bufferIs (exec (.shiftRight 1) (withBuffer [1, 2, 3, 4, 5, 6, 7, 8, 9])) [0, 0, 0, 1, 2, 3, 4, 5, 6] = true ∧
    bufferIs (exec (.shiftRight 2) (withBuffer [1, 2, 3, 4, 5, 6])) [0, 0, 0, 0, 0, 0] = true := by decide

/-- R173's example and H5. -/
theorem test_shift_left :
    bufferIs (exec (.shiftLeft 2) (withBuffer [1, 2, 3, 4, 5, 6, 7, 8, 9])) [7, 8, 9, 0, 0, 0, 0, 0, 0] = true ∧
    bufferIs (exec (.shiftLeft 5) (withBuffer [1, 2, 3, 4, 5, 6])) [0, 0, 0, 0, 0, 0] = true := by decide

/-- L1.5 and H10. -/
theorem test_to_wire_order :
    answers (exec (.toWireOrderInPlace { addr := 0x100, len := 5 }) (withBuffer [1, 2, 3, 4, 5]))
      (fun t => decide (t.mem.readBytes 0x100 5 = [2, 1, 3, 4, 5])) = true ∧
    answers (exec (.toWireOrderInPlace { addr := 0x500, len := 3 }) { State.reset with
        mem := [(0x500, 255), (0x502, 128)] })
      (fun t => decide (t.mem = [(0x501, 255), (0x502, 128)])) = true := by decide

theorem test_as_wire_order :
    answers (exec (.asWireOrder { addr := 0x500, len := 3 }) { State.reset with
        mem := [(0x500, 255), (0x502, 128)] })
      (fun t => decide (t.mem = [(0x500, 255), (0x502, 128)])) = true := by decide

/-- P2's last move: the framebuffer's region and length. -/
theorem test_flush :
    answers (exec (.flush 0x0020) (withBuffer [1, 2, 3, 4, 5, 6]))
      (fun t => decide (t.regs.base = 0x100 ∧ t.regs.length = 6 ∧ t.regs.pinMask = 0x0020 ∧ t.pc = .pre)) = true := by
  decide

/-- P4: the reorder, then the command. -/
theorem test_write_rgb :
    answers (exec (.writeRgb 0x0004 { addr := 0x500, len := 3 } 3) { State.reset with
        mem := [(0x500, 255), (0x502, 128)] })
      (fun t => decide (t.mem = [(0x501, 255), (0x502, 128)] ∧ t.regs.base = 0x500 ∧ t.regs.length = 3 ∧
        t.pc = .pre)) = true := by decide

theorem test_write_grb :
    answers (exec (.writeGrb 0x0004 { addr := 0x500, len := 3 } 3) { State.reset with
        mem := [(0x500, 255), (0x502, 128)] })
      (fun t => decide (t.mem = [(0x500, 255), (0x502, 128)] ∧ t.regs.base = 0x500 ∧ t.pc = .pre)) = true := by decide

/-- The stops: a host call while busy, and a framebuffer call after an allocation failure. -/
theorem test_refusals :
    refuses (exec (.readLed 0) (engineAt .post oneByte 0)) .hostBlocked = true ∧
    refuses (exec (.flush 1) driverDead) .driverDead = true ∧
    refuses (step { State.reset with hostQueue := [.run .rise] }) .notHostOperation = true := by decide

/-! ### The step -/

/-- R163: after a teardown there is no buffer, so a flush has LENGTH 0 (the bytes of the old one are free values). -/
theorem test_teardown :
    (teardown (withBuffer [1, 2, 3])).fb.len = 0 ∧
    answers (exec (.flush 1) (teardown (withBuffer [1, 2, 3]))) (fun t => decide (t.regs.length = 0)) = true := by
  decide

/-- R60: the host reads any byte while idle, and the engine's history and ports show nothing. -/
theorem test_host_load :
    answers (step { engineAt .idle oneByte 0 with hostQueue := [.load 0x100] })
      (fun t => decide (t.ret = .byte 0x80 ∧ t.history = [] ∧ t.out = Outputs.quiet ∧ t.ccount = 0)) = true := by
  decide

/-- T12: RST and START in one step is RESET, and the command is lost. -/
theorem test_step_reset_first :
    answers (step (inReset (presented 1))) (fun t => decide (t.pc = .idle ∧ t.history = [] ∧ t.inp.start = false)) =
      true := by decide

/-- A placed word runs as the first step after reset. -/
theorem test_step_runs_placed_word :
    answers (step (State.reset.withFetchWord 88 0x100100000010000000001))
      (fun t => decide (t.pc = .pre ∧ t.regs.base = 0x100)) = true ∧
    answers (step (State.reset.withFetchWord 8 0b00101)) (fun t => decide (t.pc = .highWait)) = true ∧
    answers (step (State.reset.withFetchWord 1 1)) (fun t => decide (t.pc = .highWait)) = true := by decide

/-! ### Witnesses: a state and operands that meet the hypotheses of each statement, and each of its clauses -/

/-- A busy state in the low wait of T1's first bit, in which the wait is over (`e = 100`). -/
def riseReady : State := engineAt .lowWait { oneByte with startTime := 1002 } 1102

/-- The same, one cycle before. -/
def riseAlmost : State := engineAt .lowWait { oneByte with startTime := 1002 } 1101

/-- A state in the high wait of T1's first bit, whose high time of 56 cycles is over, and one cycle before. -/
def fallReady : State := { engineAt .highWait { oneByte with startTime := 1002 } 1058 with pin := 0x0010 }
def fallAlmost : State := { engineAt .highWait { oneByte with startTime := 1002 } 1057 with pin := 0x0010 }

theorem witness_DecodeEncodeIdentity :
    encode (.transmit 0xFFFF 0xFFFFFFFF 0xFFFFFFFF) = some (81, 0x1FFFFFFFFFFFFFFFFFFFF) ∧
    encode .rise = some (5, 0b00101) ∧ encode .sym1 = some (1, 1) ∧ encode .advance = none := by decide

/-- Each row of R89, at the values where the conditions meet. -/
theorem witness_MicroOperationTable :
    (inReset riseReady).inp.rst = true ∧
    (State.reset.pc = .idle ∧ State.reset.inp.start = false ∧ State.reset.inp.rst = false) ∧
    ((presented 1).pc = .idle ∧ (presented 1).inp.start = true ∧ (presented 1).inp.rst = false) ∧
    ((riseAlmost.ccount - riseAlmost.regs.startTime) = 99 ∧ riseAlmost.regs.ttot = 100) ∧
    ((riseReady.ccount - riseReady.regs.startTime) = 100 ∧ riseReady.regs.ttot = 100) ∧
    ((fallAlmost.ccount - fallAlmost.regs.startTime) = 55 ∧ fallAlmost.regs.t1h = 56) ∧
    ((fallReady.ccount - fallReady.regs.startTime) = 56 ∧ fallReady.regs.t1h = 56) ∧
    (nextMicroOp riseAlmost = .lowPoll ∧ nextMicroOp riseReady = .rise ∧ nextMicroOp fallAlmost = .highPoll ∧
      nextMicroOp fallReady = .fall ∧ nextMicroOp (engineAt .pre oneByte 0) = .pre ∧
      nextMicroOp (engineAt .post oneByte 0) = .post ∧ nextMicroOp (engineAt .code5 oneByte 0) = .unreachablePc5 ∧
      nextMicroOp (engineAt .code6 oneByte 0) = .unreachablePc6 ∧
      nextMicroOp (engineAt .code7 oneByte 0) = .unreachablePc7) := by decide

/-- The step of a state without host moves, and one of each host move. -/
theorem witness_StepRunsFetched :
    State.reset.hostQueue = [] ∧ riseReady.pc ≠ .idle ∧ (inReset State.reset).inp.rst = true ∧
    (presented 1).inp.start = true ∧
    answers (step { State.reset with hostQueue := [.run (.flush 1)] }) (fun t => decide (t.pc = .pre)) = true ∧
    answers (step { State.reset with hostQueue := [.store 5 7] }) (fun t => decide (t.mem = [(5, 7)])) = true ∧
    answers (step { State.reset with hostQueue := [.setPinMode 3] }) (fun t => decide (t.pinOutput = 3)) = true ∧
    answers (step { State.reset with hostQueue := [.writePin 3 true] }) (fun t => decide (t.pin = 3)) = true ∧
    answers (step { State.reset with hostQueue := [.load 0x100], mem := [(0x100, 7)] })
      (fun t => decide (t.ret = .byte 7)) = true ∧
    answers (step { driverDead with hostQueue := [.teardown] }) (fun t => decide (t.fb.dead = false)) = true ∧
    ((Instr.flush 1).format = .pseudo ∧ Instr.waitTick.format = .primitive) := by decide

theorem witness_PlacedWordRuns :
    decodeTableWord 8 0b01001 = some .post ∧ decodeTableWord 81 0 = some .nopCmd ∧
    decodeTableWord 5 0b11111 = some .reset := by decide

theorem witness_EngineAlwaysSteps :
    State.reset.hostQueue = [] ∧ Instr.rise.format ≠ .hostcall ∧ Instr.rise.format ≠ .pseudo := by decide

/-- A machine whose parameters list 80 MHz twice, after another frequency. -/
def listedTiming : State :=
  { presented 1 with params := { Params.recommended with
      timing := [(160, { t0h := 1, t1h := 2, ttot := 3 }), (80, { t0h := 4, t1h := 5, ttot := 6 }),
        (80, { t0h := 7, t1h := 8, ttot := 9 })] } }

/-- The first entry of the frequency is latched (R7, R104). -/
theorem test_listed_timing :
    answers (exec .accept listedTiming)
      (fun t => decide (t.regs.t0h = 4 ∧ t.regs.t1h = 5 ∧ t.regs.ttot = 6)) = true := by decide

/-- The two sides of the frequency clause, 2 MHz and 3 MHz (R104, L1.9), and a listed frequency. -/
theorem witness_DefaultTimingDerivation :
    (∀ p ∈ State.reset.params.timing, p.1 ≠ State.reset.inp.cpuFreq) ∧
    (listedTiming.params.timing = [((160 : Freq), { t0h := 1, t1h := 2, ttot := 3 })] ++
      (listedTiming.inp.cpuFreq, { t0h := 4, t1h := 5, ttot := 6 }) ::
        [((80 : Freq), { t0h := 7, t1h := 8, ttot := 9 })] ∧
      (160 : Freq) ≠ listedTiming.inp.cpuFreq) ∧
    defaultTiming 2 = { t0h := 0, t1h := 1, ttot := 3 } ∧ defaultTiming 3 = { t0h := 1, t1h := 2, ttot := 4 } := by
  decide

theorem witness_IdleStepChangesNothing : State.reset.pc = .idle ∧ State.reset.inp.rst = false := by decide

theorem witness_PrologueFetchesFirstByte :
    (engineAt .pre { oneByte with length := 0 } 0).regs.length = 0 ∧ (engineAt .pre oneByte 0).regs.length ≠ 0 := by
  decide

theorem witness_EmptyTransmissionTakesThreeSteps :
    (presented 0).pc = .idle ∧ (presented 0).inp.start = true ∧ (presented 0).inp.lengthIn = 0 ∧
    NoReset (presented 0) := ⟨by decide, by decide, by decide, by unfold NoReset; decide⟩

/-- The last poll that is counted, and the first that resets the watchdog. -/
theorem witness_PollsOnlyCount :
    (riseAlmost.params.wf ∧
      (engineAt .lowWait { oneByte with w := 231 } 1).regs.w.toNat + 1 ≤ riseAlmost.params.wdtThresh ∧
      riseAlmost.params.wdtThresh < (engineAt .lowWait { oneByte with w := 232 } 1).regs.w.toNat + 1) := by decide

/-- The three arms of R126. -/
theorem witness_FallDrivesLowAndAdvances :
    (oneByte.bitMask >>> 1 ≠ 0) ∧
    (({ oneByte with bitMask := 1 } : Regs).bitMask >>> 1 = 0 ∧ oneByte.byteIdx.toNat + 1 = oneByte.length.toNat) ∧
    ({ oneByte with length := 2 } : Regs).byteIdx.toNat + 1 ≠ ({ oneByte with length := 2 } : Regs).length.toNat := by
  decide

theorem witness_AdvanceArms :
    answers (exec .advance (engineAt .highWait oneByte 0)) (fun t => decide (t.regs.bitMask = 0x40)) = true ∧
    answers (exec .advance (engineAt .highWait { oneByte with bitMask := 1 } 0)) (fun t => decide (t.pc = .post)) =
      true ∧
    answers (exec .advance (engineAt .highWait { oneByte with bitMask := 1, length := 2 } 0))
      (fun t => decide (t.regs.byteIdx = 1)) = true := by decide

theorem witness_ResetGoesIdle : answers (exec .unreachablePc7 riseReady) (fun t => decide (t.pc = .idle)) = true := by
  decide

theorem witness_ResetHasPriority : (inReset riseReady).inp.rst = true ∧ (inReset (presented 1)).inp.rst = true := by
  decide

theorem witness_TransmitIsAcceptedWhenIdle : State.reset.pc = .idle ∧ State.reset.inp.rst = false := by decide

theorem witness_CommandIgnoredWhileBusy : riseReady.pc ≠ .idle := by decide

/-- The second clause of GpioWriteDrivesMask. -/
theorem witness_GpioWriteDrivesMask : ({ State.reset with pin := 0x0003 } : State).pin = 0x0003 := by decide

/-- Both arms of WaitTick at the threshold. -/
theorem witness_WaitTickCountsPolls :
    State.reset.params.wf ∧ State.reset.params.wdtThresh < (232 : CycleWord).toNat + 1 ∧
    ¬ State.reset.params.wdtThresh < (231 : CycleWord).toNat + 1 := by decide

/-- Both answers of the platform, and a region that would leave the address space. -/
theorem witness_InitializeReplacesBuffer :
    HostReady State.reset ∧ State.reset.mem.wf = true ∧
    allocDraw 3 { State.reset with draws := { startInits := [], allocs := [some 0xFFFFFFFD], count := 0 } } =
      some 0xFFFFFFFD ∧
    allocDraw 3 { State.reset with draws := { startInits := [], allocs := [some 0xFFFFFFFE], count := 0 } } = none ∧
    allocDraw 3 { State.reset with draws := { startInits := [], allocs := [none], count := 0 } } = none :=
  ⟨by unfold HostReady; decide, by decide, by decide, by decide, by decide⟩

/-- A live driver with a buffer of two LEDs at 0x100. -/
theorem witness_buffer :
    HostReady (withBuffer [1, 2, 3, 4, 5, 6]) ∧ (withBuffer [1, 2, 3, 4, 5, 6]).mem.wf = true ∧
    FramebufferInv (withBuffer [1, 2, 3, 4, 5, 6]) ∧ (withBuffer [1, 2, 3, 4, 5, 6]).fb.len = 6 :=
  ⟨by unfold HostReady; decide, by decide, by unfold FramebufferInv; decide, by decide⟩

/-- LED 1 is the last in bounds, LED 2 the first out of bounds. -/
theorem witness_OverwriteLedStoresWireOrder :
    HostReady (withBuffer [1, 2, 3, 4, 5, 6]) ∧ (withBuffer [1, 2, 3, 4, 5, 6]).mem.wf = true ∧
    ¬ 1 * 3 + 3 > (withBuffer [1, 2, 3, 4, 5, 6]).fb.len ∧ 2 * 3 + 3 > (withBuffer [1, 2, 3, 4, 5, 6]).fb.len :=
  ⟨witness_buffer.1, witness_buffer.2.1, by decide, by decide⟩

theorem witness_MergeLedOrsChannels :
    HostReady (withBuffer [1, 2, 3, 4, 5, 6]) ∧ (withBuffer [1, 2, 3, 4, 5, 6]).mem.wf = true ∧
    ¬ 1 * 3 + 3 > (withBuffer [1, 2, 3, 4, 5, 6]).fb.len ∧ 2 * 3 + 3 > (withBuffer [1, 2, 3, 4, 5, 6]).fb.len :=
  witness_OverwriteLedStoresWireOrder

/-- A range that clips, one that just fits, and one at the end. -/
theorem witness_OverwriteRangeClips :
    HostReady (withBuffer [1, 2, 3, 4, 5, 6]) ∧ FramebufferInv (withBuffer [1, 2, 3, 4, 5, 6]) ∧
    min [7, 8, 9, 10].length (6 - 1 * 3) = 3 ∧ min [7, 8, 9].length (6 - 1 * 3) = 3 ∧ min [7].length (6 - 2 * 3) = 0 :=
  ⟨witness_buffer.1, witness_buffer.2.2.1, by decide, by decide, by decide⟩

theorem witness_MergeRangeOrsPrefix :
    HostReady (withBuffer [1, 2, 3, 4, 5, 6]) ∧ (withBuffer [1, 2, 3, 4, 5, 6]).mem.wf = true ∧
    FramebufferInv (withBuffer [1, 2, 3, 4, 5, 6]) := ⟨witness_buffer.1, witness_buffer.2.1, witness_buffer.2.2.1⟩

theorem witness_ReadLedReturnsTriple :
    HostReady (withBuffer [1, 2, 3, 4, 5, 6]) ∧ ¬ 1 * 3 + 3 > (withBuffer [1, 2, 3, 4, 5, 6]).fb.len ∧
    2 * 3 + 3 > (withBuffer [1, 2, 3, 4, 5, 6]).fb.len := ⟨witness_buffer.1, by decide, by decide⟩

/-- Shifts by none, by one, and by all the LEDs and more. -/
theorem witness_ShiftRightMovesBytes :
    HostReady (withBuffer [1, 2, 3, 4, 5, 6]) ∧ (withBuffer [1, 2, 3, 4, 5, 6]).mem.wf = true ∧
    FramebufferInv (withBuffer [1, 2, 3, 4, 5, 6]) ∧
    bufferIs (exec (.shiftRight 0) (withBuffer [1, 2, 3, 4, 5, 6])) [1, 2, 3, 4, 5, 6] = true ∧
    bufferIs (exec (.shiftRight 1) (withBuffer [1, 2, 3, 4, 5, 6])) [0, 0, 0, 1, 2, 3] = true :=
  ⟨witness_buffer.1, witness_buffer.2.1, witness_buffer.2.2.1, by decide, by decide⟩

theorem witness_ShiftLeftMovesBytes :
    HostReady (withBuffer [1, 2, 3, 4, 5, 6]) ∧ (withBuffer [1, 2, 3, 4, 5, 6]).mem.wf = true ∧
    FramebufferInv (withBuffer [1, 2, 3, 4, 5, 6]) ∧
    bufferIs (exec (.shiftLeft 0) (withBuffer [1, 2, 3, 4, 5, 6])) [1, 2, 3, 4, 5, 6] = true ∧
    bufferIs (exec (.shiftLeft 1) (withBuffer [1, 2, 3, 4, 5, 6])) [4, 5, 6, 0, 0, 0] = true :=
  ⟨witness_buffer.1, witness_buffer.2.1, witness_buffer.2.2.1, by decide, by decide⟩

theorem witness_ShiftRoundTrip :
    HostReady (withBuffer [1, 2, 3, 4, 5, 6]) ∧ (withBuffer [1, 2, 3, 4, 5, 6]).mem.wf = true ∧
    FramebufferInv (withBuffer [1, 2, 3, 4, 5, 6]) := witness_MergeRangeOrsPrefix

/-- Two complete triples and a partial one, and the empty sequence. -/
theorem witness_WireOrderSwapsTriples :
    State.reset.pc = .idle ∧ State.reset.mem.wf = true ∧ ByteSeq.wf { addr := 0xFFFFFFF8, len := 8 } = true ∧
    ByteSeq.wf { addr := 0, len := 0 } = true := by decide

theorem witness_AsWireOrderTouchesNothing : State.reset.pc = .idle := by decide

theorem witness_FlushTransmitsFramebuffer :
    HostReady (withBuffer [1, 2, 3, 4, 5, 6]) ∧ (withBuffer [1, 2, 3, 4, 5, 6]).inp.rst = false ∧
    FramebufferInv (withBuffer [1, 2, 3, 4, 5, 6]) ∧ HostReady (inReset (withBuffer [1, 2, 3])) ∧
    (inReset (withBuffer [1, 2, 3])).inp.rst = true :=
  ⟨witness_buffer.1, by decide, witness_buffer.2.2.1, by unfold HostReady; decide, by decide⟩

theorem witness_OneShotExpansions :
    State.reset.pc = .idle ∧ State.reset.inp.rst = false ∧ (inReset State.reset).pc = .idle ∧
    (inReset State.reset).inp.rst = true := by decide

theorem witness_HostRefusals :
    (riseReady.pc ≠ .idle ∧ (Instr.shiftLeft 1).format = .hostcall ∧ (Instr.flush 1).format = .pseudo) ∧
    (driverDead.pc = .idle ∧ driverDead.fb.dead = true ∧ UsesFramebuffer (.flush 1)) :=
  ⟨by decide, by decide, by decide, trivial⟩

theorem witness_ReadAfterOverwriteLed :
    HostReady (withBuffer [1, 2, 3, 4, 5, 6]) ∧ (withBuffer [1, 2, 3, 4, 5, 6]).mem.wf = true ∧
    1 * 3 + 3 ≤ (withBuffer [1, 2, 3, 4, 5, 6]).fb.len := ⟨witness_buffer.1, witness_buffer.2.1, by decide⟩

theorem witness_MergeLedIdempotent :
    HostReady (withBuffer [1, 2, 3, 4, 5, 6]) ∧ (withBuffer [1, 2, 3, 4, 5, 6]).mem.wf = true :=
  ⟨witness_buffer.1, witness_buffer.2.1⟩

theorem witness_WireOrderTwiceRestores :
    State.reset.pc = .idle ∧ State.reset.mem.wf = true ∧ ByteSeq.wf { addr := 0x500, len := 3 } = true := by decide

/-- A bit 1 and a bit 0 in a low wait that is over. -/
theorem witness_SymbolIsItsSteps :
    (riseReady.pc = .lowWait ∧ riseReady.regs.ttot ≤ elapsed riseReady ∧ NoReset riseReady ∧
      dataBit riseReady = true) ∧
    dataBit (engineAt .lowWait { oneByte with startTime := 1002, bitMask := 0x40 } 1102) = false :=
  ⟨⟨by decide, by decide, by unfold NoReset; decide, by decide⟩, by decide⟩

theorem witness_SymbolFrame :
    answers (exec .sym1 (engineAt .lowWait { oneByte with t1h := 1, ttot := 2, bitMask := 1 } 5))
      (fun t => decide (t.pc = .post)) = true := by decide

/-- The two ends of the high times the statement covers, 0 and `2^CW - 2`. -/
theorem witness_ExactPulseWidths :
    (riseReady.pc = .lowWait ∧ riseReady.regs.ttot ≤ elapsed riseReady ∧ NoReset riseReady) ∧
    (0 : CycleWord).toNat < 2 ^ 32 - 1 ∧ (0xFFFFFFFE : CycleWord).toNat < 2 ^ 32 - 1 :=
  ⟨⟨by decide, by decide, by unfold NoReset; decide⟩, by decide, by decide⟩

/-- A wait with a poll left, and one with none. -/
theorem witness_LowWaitLength :
    (riseAlmost.pc = .lowWait ∧ NoReset riseAlmost ∧ riseAlmost.regs.ttot.toNat - (elapsed riseAlmost).toNat = 1) ∧
    (NoReset riseReady ∧ riseReady.regs.ttot.toNat - (elapsed riseReady).toNat = 0) :=
  ⟨⟨by decide, by unfold NoReset; decide, by decide⟩, by unfold NoReset; decide, by decide⟩

/-- T1, whose 732 steps are `4 + 0 + 7 * 100 + 28`. -/
theorem witness_TransmissionDuration :
    (presented 1).pc = .idle ∧ (presented 1).inp.start = true ∧ (presented 1).inp.lengthIn ≠ 0 ∧
    NoReset (presented 1) ∧
    (1 ≤ (derivedTiming (presented 1)).t0h ∧ (derivedTiming (presented 1)).t0h < (derivedTiming (presented 1)).t1h ∧
      (derivedTiming (presented 1)).t1h < (derivedTiming (presented 1)).ttot) ∧
    4 + (100 - ((presented 1).ccount + 2 - startInitDraw (presented 1)).toNat) + (8 * 1 - 1) * 100 + 28 = 732 :=
  ⟨by decide, by decide, by decide, by unfold NoReset; decide, by decide, by decide⟩

/-- T1's first bit, in the low wait and in the high wait. -/
theorem witness_EveryTransmissionEnds :
    MachineInv riseReady ∧ NoReset riseReady ∧ riseReady.pc ≠ .idle ∧ MachineInv fallReady := by
  refine ⟨?_, by unfold NoReset; decide, by decide, ?_⟩ <;>
    (unfold MachineInv PositionInv PollCountInv PinInv PinsHigh PinsLow FirstBit OneHotByte Waiting IrqInv
      FramebufferInv Phase.legal; decide)

theorem witness_StepKeepsInvariant :
    MachineInv fallReady ∧ step fallReady = .next (fallCycle fallReady) :=
  ⟨witness_EveryTransmissionEnds.2.2.2, step_busy (by decide)⟩

theorem witness_OperationsKeepMemoryForm :
    exec .nop State.reset = .next (nopCycle State.reset) ∧ State.reset.mem.wf = true ∧ FramebufferInv State.reset :=
  ⟨rfl, by decide, by unfold FramebufferInv; decide⟩

theorem witness_LegalTransitions :
    Phase.legal fallReady.pc ∧ step fallReady = .next (fallCycle fallReady) ∧
    Phase.legal (inReset fallReady).pc ∧ (inReset fallReady).inp.rst = true :=
  ⟨by unfold Phase.legal; decide, step_busy (by decide), by unfold Phase.legal; decide, by decide⟩

theorem witness_PinsOutsideMaskUntouched :
    riseReady.pc ≠ .idle ∧ step riseReady = .next (riseCycle riseReady) ∧
    riseReady.regs.pinMask.getLsbD 3 = false := ⟨by decide, step_busy (by decide), by decide⟩

/-- A busy engine with request 4 pending and request 5 arriving, under either policy (D21). -/
def requested (kept : Bool) : State :=
  { riseReady with
    irqPending := [4], inp := { riseReady.inp with irqReq := [5] }
    params := { Params.recommended with irqPendingKept := kept } }

theorem witness_MaskedInterruptsWait :
    (∀ kept, (requested kept).irqDisable = true ∧ (requested kept).pc ≠ .idle ∧
      (requested kept).params.irqPendingKept = kept) ∧
    step (requested true) = .next (riseCycle (requested true)) ∧
    step (requested false) = .next (riseCycle (requested false)) :=
  ⟨by decide, step_busy (by decide), step_busy (by decide)⟩

/-- The arriving request joins, or is lost. -/
theorem test_masked_requests :
    answers (step (requested true)) (fun t => decide (t.irqPending = [4, 5])) = true ∧
    answers (step (requested false)) (fun t => decide (t.irqPending = [4])) = true := by decide

theorem witness_HistoryGrowsByTaggedEvents :
    step riseReady = .next (riseCycle riseReady) ∧
    step (inReset riseReady) = .next (resetCycle (inReset riseReady)) :=
  ⟨step_busy (by decide), step_busy (by decide)⟩

theorem witness_NoStateAcrossCalls :
    (presented 1).pc = .idle ∧ (presented 1).inp.start = true ∧ NoReset (presented 1) ∧
    (presented 1).inp.lengthIn ≠ 0 ∧ (presented 0).inp.lengthIn = 0 ∧ NoReset (presented 0) :=
  ⟨by decide, by decide, by unfold NoReset; decide, by decide, by decide, by unfold NoReset; decide⟩

theorem witness_PollsStayWithinElapsed :
    PollsWithinElapsed riseAlmost ∧ step riseAlmost = .next (lowPollCycle riseAlmost) :=
  ⟨by unfold PollsWithinElapsed Waiting; decide, step_busy (by decide)⟩

/-- WDT_THRESH at the least value the statement covers, TTOT. -/
def leastThreshold : State := { riseAlmost with params := { Params.recommended with wdtThresh := 100 } }

theorem witness_InWaitResetSilent :
    Waiting leastThreshold ∧ PollsWithinElapsed leastThreshold ∧ WellFormedTiming leastThreshold.regs ∧
    leastThreshold.regs.ttot.toNat ≤ leastThreshold.params.wdtThresh ∧ leastThreshold.inp.rst = false ∧
    step leastThreshold = .next (lowPollCycle leastThreshold) :=
  ⟨by unfold Waiting; decide, by unfold PollsWithinElapsed Waiting; decide, by unfold WellFormedTiming; decide,
    by decide, by decide, step_busy (by decide)⟩

end Sys2Proof.Tests
end

section
/-! The timing table (R7, R104): what a lookup answers for a listed and for an unlisted frequency, and the three
formulas as natural numbers. -/

namespace Sys2Proof.Machine

/-- A frequency the table does not list has the default values. -/
theorem lookupTiming_unlisted {l : List (Freq × Timing)} {f : Freq} (h : ∀ p ∈ l, p.1 ≠ f) :
    lookupTiming l f = defaultTiming f := by
  induction l with
  | nil => rfl
  | cons p rest ih =>
    obtain ⟨hp, hrest⟩ := List.forall_mem_cons.1 h
    rw [lookupTiming, if_neg (Ne.symm hp), ih hrest]

/-- The first entry for a frequency answers the lookup. -/
theorem lookupTiming_first {before : List (Freq × Timing)} {f : Freq} (h : ∀ p ∈ before, p.1 ≠ f) (d : Timing)
    (after : List (Freq × Timing)) : lookupTiming (before ++ (f, d) :: after) f = d := by
  induction before with
  | nil => exact if_pos rfl
  | cons p rest ih =>
    obtain ⟨hp, hrest⟩ := List.forall_mem_cons.1 h
    rw [List.cons_append, lookupTiming, if_neg (Ne.symm hp), ih hrest]

/-- A 16-bit frequency leaves the default values inside `CW` bits, so the reduction of R100 changes none. -/
theorem defaultTiming_toNat (f : Freq) :
    (defaultTiming f).t0h.toNat = 350 * f.toNat / 1000 ∧ (defaultTiming f).t1h.toNat = 700 * f.toNat / 1000 ∧
      (defaultTiming f).ttot.toNat = (1250 * f.toNat + 999) / 1000 := by
  have hf := f.isLt
  refine ⟨?_, ?_, ?_⟩ <;>
    simp only [defaultTiming, t0hOf, t1hOf, ttotOf, BitVec.toNat_ofNat] <;> omega

/-- The default values are well formed (R26) from 3 MHz on, and T0H is 0 below. -/
theorem defaultTiming_wellFormed_iff (f : Freq) :
    3 ≤ f.toNat ↔ 1 ≤ (defaultTiming f).t0h ∧ (defaultTiming f).t0h < (defaultTiming f).t1h ∧
      (defaultTiming f).t1h < (defaultTiming f).ttot := by
  obtain ⟨h0, h1, ht⟩ := defaultTiming_toNat f
  have hone : (1 : CycleWord).toNat = 1 := rfl
  simp only [BitVec.le_def, BitVec.lt_def, h0, h1, ht, hone]
  omega

/-- ACCEPT latches the three values derived from the frequency of its step (R100). -/
theorem acceptCycle_timing (s : State) :
    (acceptCycle s).regs.t0h = (derivedTiming s).t0h ∧ (acceptCycle s).regs.t1h = (derivedTiming s).t1h ∧
      (acceptCycle s).regs.ttot = (derivedTiming s).ttot := ⟨rfl, rfl, rfl⟩

/-- Settles O9: the lookup answers the first entry or the default, whose values are then plain numbers. -/
theorem defaultTimingDerivation : Obligations.DefaultTimingDerivation := by
  unfold Obligations.DefaultTimingDerivation
  refine ⟨?_, ?_, by decide, by decide⟩
  · intro s hs f d
    have hd : d = defaultTiming s.inp.cpuFreq := lookupTiming_unlisted hs
    obtain ⟨h0, h1, ht⟩ := defaultTiming_toNat s.inp.cpuFreq
    rw [hd]
    exact ⟨h0, h1, ht, by omega, defaultTiming_wellFormed_iff _⟩
  · intro s before after d hs hb
    have hd : derivedTiming s = d := by
      unfold derivedTiming
      rw [hs]
      exact lookupTiming_first hb d after
    exact ⟨hd, acceptCycle s, rfl, hd ▸ acceptCycle_timing s⟩

end Sys2Proof.Machine
end

section
/-! What a step fetches: the micro-operation, or the host's next move (R6, R89). -/

namespace Sys2Proof.Machine

/-- Where the engine is busy or RST or a command strobe stands on the ports, the host has no move. -/
theorem hostMayMove_eq_false_iff (s : State) :
    hostMayMove s = false ↔ s.pc ≠ .idle ∨ s.inp.rst = true ∨ s.inp.start = true := by
  rw [← Bool.not_eq_true, hostMayMove_iff]
  simp only [not_and_or, Bool.not_eq_false, ne_eq]

/-- The host can issue exactly the operations of the formats CMD, HOSTCALL and PSEUDO. -/
theorem hostMayRun_iff (i : Instr) :
    hostMayRun i = true ↔ i.format = .cmd ∨ i.format = .hostcall ∨ i.format = .pseudo := by
  unfold hostMayRun
  cases i.format <;> simp

/-- Where the host may move, `fetch` takes the head of its queue. -/
theorem fetch_host {s : State} {m : HostMove} {rest : List HostMove} (hq : s.hostQueue = m :: rest)
    (hm : hostMayMove s = true) : fetch s = takeHostMove m { s with hostQueue := rest } := by
  unfold fetch
  rw [hq]
  exact if_pos hm

/-- A queued move that is no operation leaves its state. -/
theorem step_moved {s t : State} {m : HostMove} {rest : List HostMove} (hq : s.hostQueue = m :: rest)
    (hm : hostMayMove s = true) (ht : takeHostMove m { s with hostQueue := rest } = .moved t) :
    step s = .next t := by
  unfold step
  rw [fetch_host hq hm, ht]

/-- A queued operation of the host is run by `exec`. -/
theorem step_hostRun {s : State} {i : Instr} {rest : List HostMove} (hq : s.hostQueue = .run i :: rest)
    (hm : hostMayMove s = true) (hi : hostMayRun i = true) : step s = exec i { s with hostQueue := rest } := by
  unfold step
  rw [fetch_host hq hm, takeHostMove, if_pos hi]

/-- Any other queued operation is refused by name. -/
theorem step_notHostOperation {s : State} {i : Instr} {rest : List HostMove} (hq : s.hostQueue = .run i :: rest)
    (hm : hostMayMove s = true) (hi : hostMayRun i = false) : step s = .refused .notHostOperation := by
  unfold step
  rw [fetch_host hq hm, takeHostMove, if_neg (by simp [hi])]

/-- Settles O5, move by move along `takeHostMove`. -/
theorem stepRunsFetched : Obligations.StepRunsFetched := by
  unfold Obligations.StepRunsFetched
  intro s
  refine ⟨fun h => ?_, fun m rest hq hp hr hs => ?_⟩
  · rw [← hostMayMove_eq_false_iff] at h
    unfold step
    rw [fetch_engine h]
  · have hm : hostMayMove s = true := (hostMayMove_iff s).2 ⟨hp, hr, hs⟩
    refine ⟨?run, ?refuse, ?store, ?load, ?setPinMode, ?writePin, ?teardown⟩
    case run =>
      rintro i rfl hf
      exact step_hostRun hq hm ((hostMayRun_iff i).2 hf)
    case refuse =>
      rintro i rfl hf
      refine step_notHostOperation hq hm ?_
      rcases hf with hf | hf | hf <;> simp [hostMayRun, hf]
    case store => rintro a v rfl; exact step_moved hq hm rfl
    case load => rintro a rfl; exact step_moved hq hm rfl
    case setPinMode => rintro p rfl; exact step_moved hq hm rfl
    case writePin => rintro p l rfl; exact step_moved hq hm rfl
    case teardown =>
      rintro rfl
      exact ⟨_, step_moved hq hm rfl, teardown_frame _, rfl, rfl, rfl, rfl, rfl, fun x hx => loseBuffer_outside _ hx⟩

end Sys2Proof.Machine
end

section
/-! The events of each micro-operation (R11). -/

namespace Sys2Proof.Machine

/-- A state with the same history has no new event. -/
theorem Appends.nil {s t : State} (h : t.history = s.history) : Appends s t [] := by
  simp [Appends, h]

/-- Events of two parts of one step add up. -/
theorem Appends.trans {s t u : State} {l m : List EventKind} (h : Appends s t l) (hs : t.stepNo = s.stepNo)
    (k : Appends t u m) : Appends s u (l ++ m) := by
  unfold Appends at *
  rw [k, h, hs, List.map_append, List.append_assoc]

/-- At most `n` events are appended, all tagged with the step number. -/
def AppendsAtMost (n : Nat) (s t : State) : Prop := ∃ l, Appends s t l ∧ l.length ≤ n

/-- A known list of events gives the bound. -/
theorem Appends.atMost {n : Nat} {s t : State} {l : List EventKind} (h : Appends s t l) (hn : l.length ≤ n) :
    AppendsAtMost n s t := ⟨l, h, hn⟩

theorem AppendsAtMost.mono {m n : Nat} {s t : State} (h : AppendsAtMost m s t) (hmn : m ≤ n) :
    AppendsAtMost n s t :=
  let ⟨_, hl, hlen⟩ := h
  hl.atMost (hlen.trans hmn)

/-- The start and the end of a cycle append nothing: its events are those of its action. -/
theorem AppendsAtMost.cycle {n : Nat} {act : State → State} {s : State}
    (h : AppendsAtMost n (beginCycle s) (act (beginCycle s))) : AppendsAtMost n s (cycle act s) := h

/-- WaitTick resets the watchdog or has no event (R147). -/
theorem waitTick_atMost (s : State) : AppendsAtMost 1 s (waitTick s) := by
  by_cases h : s.params.wdtThresh < s.regs.w.toNat + 1
  · have hw : Appends s (waitTick s) [.wdtReset] := by rw [waitTick_over h]; rfl
    exact hw.atMost (by simp)
  · have hw : Appends s (waitTick s) [] := .nil (by rw [waitTick_under (by omega)])
    exact hw.atMost (by simp)

/-- A poll is the sample, which is no event, then WaitTick (R121, R123). -/
theorem lowPollAct_atMost (s : State) : AppendsAtMost 1 s (lowPollAct s) := waitTick_atMost (cycleCount s)

/-- PRE resets the watchdog and, where there is a payload, fetches its first byte (R102, R103). -/
theorem preAct_atMost (s : State) : AppendsAtMost 2 s (preAct s) := by
  unfold preAct
  split
  · exact ⟨[.wdtReset], rfl, by simp⟩
  · exact ⟨[.wdtReset, .memRead s.regs.base (memValue s.regs.base s)],
      by simp [Appends, preFetch, preInit, memValue], by simp⟩

/-- ADVANCE has at most the event of the next fetch (R126). -/
theorem advance_atMost (s : State) : AppendsAtMost 1 s (advance s) := by
  rcases advance_cases s with ⟨-, h⟩ | ⟨-, -, h⟩ | ⟨-, -, h⟩ <;> rw [h]
  · exact (Appends.nil rfl).atMost (by simp)
  · exact (Appends.nil rfl).atMost (by simp)
  · exact ⟨[.memRead (nextByteAddr s) (memValue (nextByteAddr s) s)], rfl, by simp⟩

/-- FALL writes the pins, then advances in the same step (R124). -/
theorem fallAct_atMost (s : State) : AppendsAtMost 2 s (fallAct s) := by
  have hedge : Appends s (fallEdge s) [.pinWrite s.regs.pinMask false] := rfl
  obtain ⟨l, hl, hlen⟩ := advance_atMost (fallEdge s)
  exact (hedge.trans rfl hl).atMost (by simpa using hlen)

/-- POST resets the watchdog, then releases the scope (R108). -/
theorem postAct_atMost (s : State) : AppendsAtMost 2 s (postAct s) :=
  ⟨[.wdtReset, .irqUnlock], by simp [Appends, postAct], by simp⟩

/-- RESET has no event (R210). -/
theorem resetCycle_appends (s : State) : Appends s (resetCycle s) [] := .nil rfl

/-- No micro-operation has more than two events. -/
theorem engineStep_atMost (s : State) : AppendsAtMost 2 s (engineStep s) := by
  have hreset : AppendsAtMost 2 s (resetCycle s) := (resetCycle_appends s).atMost (by simp)
  have hpoll : AppendsAtMost 2 s (lowPollCycle s) := ((lowPollAct_atMost _).mono (by simp)).cycle
  rcases engineStep_cases s with ⟨-, h⟩ | ⟨-, h⟩
  · rw [h]; exact hreset
  · rcases h with ⟨-, -, h⟩ | ⟨-, -, h⟩ | ⟨-, h⟩ | ⟨-, -, h⟩ | ⟨-, -, h⟩ | ⟨-, -, h⟩ | ⟨-, -, h⟩ | ⟨-, h⟩ | ⟨-, h⟩ <;> rw [h]
    exacts [⟨[.irqLock], rfl, by simp⟩, ⟨[], .nil rfl, by simp⟩, (preAct_atMost _).cycle,
      ⟨[.pinWrite s.regs.pinMask true], rfl, by simp⟩, hpoll, (fallAct_atMost _).cycle, hpoll,
      (postAct_atMost _).cycle, hreset]

/-- With RST = 1 the engine's step is RESET, whatever the phase (R194). -/
theorem engineStep_rst {s : State} (h : s.inp.rst = true) : engineStep s = resetCycle s := if_pos h

end Sys2Proof.Machine
end

section
/-! The host's part of a step. A step that answers a next state is the host's part, which leaves the engine alone, and
then at most one step of the engine. -/

namespace Sys2Proof.Machine

/-- What the host's part of a step leaves alone: the engine, its outputs, RST, CPU_FREQ and the interrupt requests,
the clock, the watchdog, the pending set, the parameters and the history. The command ports, the pins, memory, the
framebuffer, what was handed back, the queue and the draws are the host's to change. -/
structure HostPart (s u : State) : Prop where
  regs : u.regs = s.regs
  pc : u.pc = s.pc
  irqDisable : u.irqDisable = s.irqDisable
  rst : u.inp.rst = s.inp.rst
  cpuFreq : u.inp.cpuFreq = s.inp.cpuFreq
  irqReq : u.inp.irqReq = s.inp.irqReq
  upcoming : u.upcoming = s.upcoming
  out : u.out = s.out
  ccount : u.ccount = s.ccount
  sample : u.sample = s.sample
  stepNo : u.stepNo = s.stepNo
  wdtElapsed : u.wdtElapsed = s.wdtElapsed
  irqPending : u.irqPending = s.irqPending
  params : u.params = s.params
  history : u.history = s.history

/-- A state that differs only in the command ports, the pins and the host's own fields is the host's part. -/
theorem HostPart.of_update {s u : State}
    (h : u = { s with
      inp := { s.inp with
        start := u.inp.start, pinMaskIn := u.inp.pinMaskIn, baseIn := u.inp.baseIn, lengthIn := u.inp.lengthIn }
      pin := u.pin, pinOutput := u.pinOutput, mem := u.mem, fb := u.fb, ret := u.ret
      hostQueue := u.hostQueue, draws := u.draws }) : HostPart s u := by
  rw [h]
  exact ⟨rfl, rfl, rfl, rfl, rfl, rfl, rfl, rfl, rfl, rfl, rfl, rfl, rfl, rfl, rfl⟩

theorem HostPart.refl (s : State) : HostPart s s := .of_update rfl

theorem HostPart.trans {s t u : State} (h : HostPart s t) (k : HostPart t u) : HostPart s u :=
  ⟨k.regs.trans h.regs, k.pc.trans h.pc, k.irqDisable.trans h.irqDisable, k.rst.trans h.rst,
    k.cpuFreq.trans h.cpuFreq, k.irqReq.trans h.irqReq, k.upcoming.trans h.upcoming, k.out.trans h.out,
    k.ccount.trans h.ccount, k.sample.trans h.sample, k.stepNo.trans h.stepNo, k.wdtElapsed.trans h.wdtElapsed,
    k.irqPending.trans h.irqPending, k.params.trans h.params, k.history.trans h.history⟩

/-- A host call's frame is more than the host's part leaves alone. -/
theorem HostCallFrame.hostPart {s t : State} (h : HostCallFrame s t) : HostPart s t := by
  obtain ⟨hregs, hpc, hirq, hinp, hup, hout, -, -, hcc, hsample, hstep, hwdt, hpend, -, hparams, hhist⟩ := h
  exact ⟨hregs, hpc, hirq, by rw [hinp], by rw [hinp], by rw [hinp], hup, hout, hcc, hsample, hstep, hwdt, hpend,
    hparams, hhist⟩

/-- A command word on the ports. -/
theorem driveCommand_hostPart (op : Bool) (pm : PinMask) (b : Addr) (l : Len) (s : State) :
    HostPart s (driveCommand op pm b l s) := .of_update rfl

theorem driveNoCommand_hostPart (s : State) : HostPart s (driveNoCommand s) := .of_update rfl

/-- A move taken from the queue. -/
theorem dequeue_hostPart (rest : List HostMove) (s : State) : HostPart s { s with hostQueue := rest } := .of_update rfl

theorem setPinMode_hostPart (mask : PinMask) (s : State) : HostPart s (setPinMode mask s) := .of_update rfl

theorem writePin_hostPart (mask : PinMask) (level : Bool) (s : State) :
    HostPart s (writePin mask level s) := .of_update rfl

/-! ### The frame of each host call (the head of spec file 43) -/

theorem storeByte_frame (a : Addr) (v : Byte) (s : State) : HostCallFrame s (storeByte a v s) := .of_update _ _ rfl

/-- The buffer is placed, or the allocation has failed (R165, R166). -/
theorem fbInitialize_frame (bytes : List Byte) (s : State) : HostCallFrame s (fbInitialize bytes s) := by
  unfold fbInitialize
  split
  · exact .of_update _ _ rfl
  · exact .of_update _ _ rfl

/-- `overwriteLed`, in and out of bounds (R167). -/
theorem overwriteLed_frame (index : Nat) (r g b : Byte) (s : State) :
    HostCallFrame s (overwriteLed index r g b s) := by
  unfold overwriteLed
  split
  · exact .of_update _ _ rfl
  · exact .of_update _ _ rfl

theorem overwriteRange_frame (startIndex : Nat) (bytes : List Byte) (s : State) :
    HostCallFrame s (overwriteRange startIndex bytes s) := .of_update _ _ rfl

/-- `mergeLed`, in and out of bounds (R169). -/
theorem mergeLed_frame (index : Nat) (r g b : Byte) (s : State) : HostCallFrame s (mergeLed index r g b s) := by
  unfold mergeLed
  split
  · exact .of_update _ _ rfl
  · exact .of_update _ _ rfl

theorem mergeRange_frame (startIndex : Nat) (bytes : List Byte) (s : State) :
    HostCallFrame s (mergeRange startIndex bytes s) := .of_update _ _ rfl

theorem readLed_frame (index : Nat) (s : State) : HostCallFrame s (readLed index s) := .of_update _ _ rfl

theorem shiftRight_frame (ledCount : Nat) (s : State) : HostCallFrame s (shiftRight ledCount s) := .of_update _ _ rfl

theorem shiftLeft_frame (ledCount : Nat) (s : State) : HostCallFrame s (shiftLeft ledCount s) := .of_update _ _ rfl

theorem toWireOrderInPlace_frame (bytes : ByteSeq) (s : State) : HostCallFrame s (toWireOrderInPlace bytes s) :=
  .of_update _ _ rfl

theorem asWireOrder_frame (bytes : ByteSeq) (s : State) : HostCallFrame s (asWireOrder bytes s) := .of_update _ _ rfl

/-- A call without a failure answer, once the engine is idle, has done its work. -/
theorem whenIdle_next_act {act : State → State} {s t : State}
    (h : whenIdle (fun u => .next (act u)) s = .next t) : t = act s := by
  obtain ⟨-, hact⟩ := whenIdle_next h
  cases hact
  rfl

/-- Every host call that answers a next state leaves the engine and the pins alone. -/
theorem exec_hostcall_frame {i : Instr} {s t : State} (hi : i.format = .hostcall) (h : exec i s = .next t) :
    HostCallFrame s t := by
  cases i with
  | fbInitialize bytes => obtain ⟨-, -, rfl⟩ := whenAlive_next h; exact fbInitialize_frame bytes s
  | overwriteLed index r g b => obtain ⟨-, -, rfl⟩ := whenAlive_next h; exact overwriteLed_frame index r g b s
  | overwriteRange k bytes => obtain ⟨-, -, rfl⟩ := whenAlive_next h; exact overwriteRange_frame k bytes s
  | mergeLed index r g b => obtain ⟨-, -, rfl⟩ := whenAlive_next h; exact mergeLed_frame index r g b s
  | mergeRange k bytes => obtain ⟨-, -, rfl⟩ := whenAlive_next h; exact mergeRange_frame k bytes s
  | readLed index => obtain ⟨-, -, rfl⟩ := whenAlive_next h; exact readLed_frame index s
  | shiftRight k => obtain ⟨-, -, rfl⟩ := whenAlive_next h; exact shiftRight_frame k s
  | shiftLeft k => obtain ⟨-, -, rfl⟩ := whenAlive_next h; exact shiftLeft_frame k s
  | toWireOrderInPlace bytes =>
    obtain rfl := whenIdle_next_act (act := toWireOrderInPlace bytes) h
    exact toWireOrderInPlace_frame bytes s
  | asWireOrder bytes =>
    obtain rfl := whenIdle_next_act (act := asWireOrder bytes) h
    exact asWireOrder_frame bytes s
  | _ => cases hi

/-! ### A step as the host's part and the engine's -/

/-- The host's part from `s` leads to `t`, or to a state from which `t` is one step of the engine. -/
def HostThenEngine (s t : State) : Prop := ∃ u, HostPart s u ∧ (t = u ∨ t = engineStep u)

theorem HostPart.still {s u : State} (h : HostPart s u) : HostThenEngine s u := ⟨u, h, .inl rfl⟩

theorem HostPart.engine {s u : State} (h : HostPart s u) : HostThenEngine s (engineStep u) := ⟨u, h, .inr rfl⟩

theorem HostPart.transmit {s u : State} (h : HostPart s u) (pm : PinMask) (b : Addr) (l : Len) :
    HostThenEngine s (transmitWord pm b l u) := (h.trans (driveCommand_hostPart true pm b l u)).engine

/-- A command word is one step of the engine with the word on its ports (R86, R87). -/
theorem exec_cmd_hostThenEngine {i : Instr} {s t : State} (hi : i.format = .cmd) (h : exec i s = .next t) :
    HostThenEngine s t := by
  cases i with
  | transmit pm b l => cases h; exact (HostPart.refl s).transmit pm b l
  | nopCmd => cases h; exact (driveNoCommand_hostPart s).engine
  | _ => cases hi

/-- A pseudo-operation is a host call and one TRANSMIT (R96). -/
theorem exec_pseudo_hostThenEngine {i : Instr} {s t : State} (hi : i.format = .pseudo) (h : exec i s = .next t) :
    HostThenEngine s t := by
  cases i with
  | flush pm => obtain ⟨-, -, rfl⟩ := whenAlive_next h; exact (HostPart.refl s).transmit ..
  | writeRgb pm bytes n =>
    obtain rfl := whenIdle_next_act (act := writeRgb pm bytes n) h
    exact (toWireOrderInPlace_frame bytes s).hostPart.transmit ..
  | writeGrb pm bytes n =>
    obtain rfl := whenIdle_next_act (act := writeGrb pm bytes n) h
    exact (asWireOrder_frame bytes s).hostPart.transmit ..
  | _ => cases hi

/-- Every operation the host can issue is the host's part and at most one step of the engine. -/
theorem exec_hostRun_hostThenEngine {i : Instr} {s t : State} (hi : hostMayRun i = true) (h : exec i s = .next t) :
    HostThenEngine s t := by
  rcases (hostMayRun_iff i).1 hi with hf | hf | hf
  · exact exec_cmd_hostThenEngine hf h
  · exact (exec_hostcall_frame hf h).hostPart.still
  · exact exec_pseudo_hostThenEngine hf h

/-- Every step that answers a next state is the host's part and at most one step of the engine. -/
theorem step_hostThenEngine {s t : State} (h : step s = .next t) : HostThenEngine s t := by
  rcases step_next_cases h with rfl | ⟨m, rest, -, -, hmove⟩
  · exact (HostPart.refl s).engine
  · have hq := dequeue_hostPart rest s
    rcases hmove with ⟨i, -, hi, hexec⟩ | ⟨a, v, -, rfl⟩ | ⟨p, -, rfl⟩ | ⟨p, l, -, rfl⟩ | ⟨a, -, rfl⟩ | ⟨-, rfl⟩
    · obtain ⟨u, hu, ht⟩ := exec_hostRun_hostThenEngine hi hexec
      exact ⟨u, hq.trans hu, ht⟩
    · exact (hq.trans (storeByte_frame a v _).hostPart).still
    · exact (hq.trans (setPinMode_hostPart p _)).still
    · exact (hq.trans (writePin_hostPart p l _)).still
    · exact (hq.trans (loadByte_frame a _).hostPart).still
    · exact (hq.trans (teardown_frame _).hostPart).still

/-- Where the host has no move, a step that answers a next state is the engine's. -/
theorem step_next_engine {s t : State}
    (hs : s.hostQueue = [] ∨ s.pc ≠ .idle ∨ s.inp.rst = true ∨ s.inp.start = true) (h : step s = .next t) :
    t = engineStep s := by
  rw [← hostMayMove_eq_false_iff] at hs
  rw [step_engine hs] at h
  cases h
  rfl

end Sys2Proof.Machine
end

section
/-! Two facts about every step: masked interrupts wait (R35, R193), and the history grows by tagged events (R11). -/

namespace Sys2Proof.Machine

/-- Arriving requests join the pending ones under a policy that keeps them, and are lost under one that does not. -/
theorem pendingAfter_masked (s : State) :
    pendingAfter true s = if s.params.irqPendingKept then addRequests s.irqPending s.inp.irqReq else s.irqPending :=
  rfl

/-- Settles O56: the host's part keeps the pending set and the flag, and a masked cycle takes no request. -/
theorem maskedInterruptsWait : Obligations.MaskedInterruptsWait := by
  unfold Obligations.MaskedInterruptsWait
  intro s t hmask h
  refine ⟨fun r hr => ?_, fun hengine => ?_⟩
  · obtain ⟨u, hu, rfl | rfl⟩ := step_hostThenEngine h
    · exact hu.irqPending ▸ hr
    · rw [(engineStep_law u).irqPending, hu.irqDisable, hmask]
      exact mem_pendingAfter_masked (hu.irqPending ▸ hr)
  · rw [step_next_engine hengine h, (engineStep_law s).irqPending, hmask, pendingAfter_masked]
    refine ⟨fun hkept r => ?_, fun hdropped => ?_⟩
    · rw [if_pos hkept]
      exact mem_addRequests r _ _
    · exact if_neg (by simp [hdropped])

/-- Settles O57: the host's part appends nothing, an engine step at most two events, and RESET none. -/
theorem historyGrowsByTaggedEvents : Obligations.HistoryGrowsByTaggedEvents := by
  unfold Obligations.HistoryGrowsByTaggedEvents
  intro s t h
  cases hr : s.inp.rst with
  | true =>
    rw [step_next_engine (.inr (.inr (.inl hr))) h, engineStep_rst hr]
    exact ⟨[], resetCycle_appends s, by simp, fun _ => rfl⟩
  | false =>
    obtain ⟨u, hu, ht⟩ := step_hostThenEngine h
    obtain ⟨l, hl, hlen⟩ : AppendsAtMost 2 u t := by
      rcases ht with rfl | rfl
      · exact (Appends.nil rfl).atMost (by simp)
      · exact engineStep_atMost u
    exact ⟨l, (Appends.nil hu.history).trans hu.stepNo hl, hlen, by simp⟩

end Sys2Proof.Machine
end

section
/-! Memory's form: the canonical cells and the framebuffer's region (R60, R162), kept by every step. -/

namespace Sys2Proof.Machine

/-- Memory is canonical and the framebuffer's invariant holds. -/
def MemoryForm (s : State) : Prop := s.mem.wf = true ∧ FramebufferInv s

/-- The form speaks of memory and the framebuffer's record alone. -/
theorem MemoryForm.congr {s t : State} (h : MemoryForm s) (hmem : t.mem = s.mem) (hfb : t.fb = s.fb) :
    MemoryForm t := by
  unfold MemoryForm FramebufferInv at *
  rwa [hmem, hfb]

/-- A step of the engine writes neither memory nor the framebuffer's record. -/
theorem engineStep_memoryForm {s : State} (h : MemoryForm s) : MemoryForm (engineStep s) :=
  h.congr (engineStep_law s).mem (engineStep_law s).fb

theorem storeBytes_memoryForm (a : Addr) (bs : List Byte) {s : State} (h : MemoryForm s) :
    MemoryForm (storeBytes a bs s) := ⟨storeBytes_wf a bs h.1, h.2⟩

/-- A placed buffer holds whole LEDs in a region of the address space, and a lost one keeps its record (R165, R166). -/
theorem fbInitialize_memoryForm (bytes : List Byte) {s : State} (h : MemoryForm s) :
    MemoryForm (fbInitialize bytes s) := by
  unfold fbInitialize
  split
  · next addr haddr => exact ⟨storeBytes_wf _ _ h.1, Nat.mul_mod_right 3 _, allocDraw_fits haddr⟩
  · exact ⟨loseBuffer_wf h.1, h.2⟩

theorem overwriteLed_memoryForm (index : Nat) (r g b : Byte) {s : State} (h : MemoryForm s) :
    MemoryForm (overwriteLed index r g b s) := by
  unfold overwriteLed
  split
  · exact storeBytes_memoryForm _ _ h
  · exact h

theorem mergeLed_memoryForm (index : Nat) (r g b : Byte) {s : State} (h : MemoryForm s) :
    MemoryForm (mergeLed index r g b s) := by
  unfold mergeLed
  split
  · exact storeBytes_memoryForm _ _ h
  · exact h

theorem toWireOrderInPlace_memoryForm (bytes : ByteSeq) {s : State} (h : MemoryForm s) :
    MemoryForm (toWireOrderInPlace bytes s) := storeBytes_memoryForm _ _ h

/-- Every host call places the framebuffer, stores bytes, or leaves memory alone. -/
theorem exec_hostcall_memoryForm {i : Instr} {s t : State} (hi : i.format = .hostcall) (he : exec i s = .next t)
    (h : MemoryForm s) : MemoryForm t := by
  cases i with
  | fbInitialize bytes => obtain ⟨-, -, rfl⟩ := whenAlive_next he; exact fbInitialize_memoryForm bytes h
  | overwriteLed index r g b => obtain ⟨-, -, rfl⟩ := whenAlive_next he; exact overwriteLed_memoryForm index r g b h
  | overwriteRange k bytes => obtain ⟨-, -, rfl⟩ := whenAlive_next he; exact storeBytes_memoryForm _ _ h
  | mergeLed index r g b => obtain ⟨-, -, rfl⟩ := whenAlive_next he; exact mergeLed_memoryForm index r g b h
  | mergeRange k bytes => obtain ⟨-, -, rfl⟩ := whenAlive_next he; exact storeBytes_memoryForm _ _ h
  | readLed index => obtain ⟨-, -, rfl⟩ := whenAlive_next he; exact h
  | shiftRight k => obtain ⟨-, -, rfl⟩ := whenAlive_next he; exact storeBytes_memoryForm _ _ h
  | shiftLeft k => obtain ⟨-, -, rfl⟩ := whenAlive_next he; exact storeBytes_memoryForm _ _ h
  | toWireOrderInPlace bytes =>
    obtain rfl := whenIdle_next_act (act := toWireOrderInPlace bytes) he
    exact toWireOrderInPlace_memoryForm bytes h
  | asWireOrder bytes => obtain rfl := whenIdle_next_act (act := asWireOrder bytes) he; exact h
  | _ => cases hi

/-- The ports a command word drives are no part of the form, and the rest is a step of the engine. -/
theorem transmitWord_memoryForm (pm : PinMask) (b : Addr) (l : Len) {s : State} (h : MemoryForm s) :
    MemoryForm (transmitWord pm b l s) := engineStep_memoryForm (s := driveCommand true pm b l s) h

theorem exec_cmd_memoryForm {i : Instr} {s t : State} (hi : i.format = .cmd) (he : exec i s = .next t)
    (h : MemoryForm s) : MemoryForm t := by
  cases i with
  | transmit pm b l => cases he; exact transmitWord_memoryForm pm b l h
  | nopCmd => cases he; exact engineStep_memoryForm (s := driveNoCommand s) h
  | _ => cases hi

/-- A pseudo-operation is a host call and one TRANSMIT (R96). -/
theorem exec_pseudo_memoryForm {i : Instr} {s t : State} (hi : i.format = .pseudo) (he : exec i s = .next t)
    (h : MemoryForm s) : MemoryForm t := by
  cases i with
  | flush pm => obtain ⟨-, -, rfl⟩ := whenAlive_next he; exact transmitWord_memoryForm _ _ _ h
  | writeRgb pm bytes n =>
    obtain rfl := whenIdle_next_act (act := writeRgb pm bytes n) he
    exact transmitWord_memoryForm _ _ _ (toWireOrderInPlace_memoryForm bytes h)
  | writeGrb pm bytes n =>
    obtain rfl := whenIdle_next_act (act := writeGrb pm bytes n) he
    exact transmitWord_memoryForm (s := asWireOrder bytes s) _ _ _ h
  | _ => cases hi

/-- Every operation the host can issue keeps memory's form. -/
theorem exec_hostRun_memoryForm {i : Instr} {s t : State} (hi : hostMayRun i = true) (he : exec i s = .next t)
    (h : MemoryForm s) : MemoryForm t := by
  rcases (hostMayRun_iff i).1 hi with hf | hf | hf
  · exact exec_cmd_memoryForm hf he h
  · exact exec_hostcall_memoryForm hf he h
  · exact exec_pseudo_memoryForm hf he h

/-- Every step, of the engine or of the host, keeps memory's form. -/
theorem step_memoryForm {s t : State} (h : step s = .next t) (hs : MemoryForm s) : MemoryForm t := by
  rcases step_next_cases h with rfl | ⟨m, rest, -, -, hmove⟩
  · exact engineStep_memoryForm hs
  · have hq : MemoryForm { s with hostQueue := rest } := hs
    rcases hmove with ⟨i, -, hi, he⟩ | ⟨a, v, -, rfl⟩ | ⟨p, -, rfl⟩ | ⟨p, l, -, rfl⟩ | ⟨a, -, rfl⟩ | ⟨-, rfl⟩
    · exact exec_hostRun_memoryForm hi he hq
    · exact ⟨Memory.wf_write _ a v hs.1, hs.2⟩
    · exact hs
    · exact hs
    · exact hs
    · exact ⟨loseBuffer_wf hq.1, teardown_framebufferInv _⟩

/-- What the host's part keeps in IDLE and every engine step keeps, every step keeps. -/
theorem step_keeps {P : State → Prop} (hhost : ∀ s u, s.pc = .idle → HostPart s u → P s → P u)
    (hengine : ∀ u, P u → P (engineStep u)) {s t : State} (h : step s = .next t) (hs : P s) : P t := by
  by_cases hp : s.pc = .idle
  · obtain ⟨u, hu, rfl | rfl⟩ := step_hostThenEngine h
    · exact hhost s _ hp hu hs
    · exact hengine u (hhost s u hp hu hs)
  · rw [step_busy hp] at h
    cases h
    exact hengine s hs

end Sys2Proof.Machine
end

section
/-! The pc, the pins and the poll count after each micro-operation (R23, R32, R29). -/

namespace Sys2Proof.Machine

/-- What holds of each micro-operation's cycle, under the guard that selects it (R89), holds of the engine's step. -/
theorem engineStep_elim {P : State → Prop} {s : State}
    (reset : s.inp.rst = true ∨ ¬ Phase.legal s.pc → P (resetCycle s))
    (nop : s.pc = .idle → P (nopCycle s))
    (accept : s.pc = .idle → P (acceptCycle s))
    (pre : s.pc = .pre → P (preCycle s))
    (lowPoll : s.pc = .lowWait → lowWaitOver s = false → P (lowPollCycle s))
    (rise : s.pc = .lowWait → P (riseCycle s))
    (highPoll : s.pc = .highWait → highWaitOver (highTime s) s = false → P (lowPollCycle s))
    (fall : s.pc = .highWait → P (fallCycle s))
    (post : s.pc = .post → P (postCycle s)) : P (engineStep s) := by
  rcases engineStep_cases s with ⟨hr, h⟩ | ⟨-, ⟨hp, -, h⟩ | ⟨hp, -, h⟩ | ⟨hp, h⟩ | ⟨hp, -, h⟩ | ⟨hp, ho, h⟩ |
    ⟨hp, -, h⟩ | ⟨hp, ho, h⟩ | ⟨hp, h⟩ | ⟨hp, h⟩⟩ <;> rw [h]
  exacts [reset (.inl hr), accept hp, nop hp, pre hp, rise hp, lowPoll hp ho, fall hp, highPoll hp ho, post hp,
    reset (.inr fun ⟨h5, h6, h7⟩ => hp.elim h5 (·.elim h6 h7))]

/-- PRE goes to POST where there is no payload, else to the first low wait (R102, R103). -/
theorem preCycle_pc (s : State) : (preCycle s).pc = .post ∨ (preCycle s).pc = .lowWait := by
  show (preAct (beginCycle s)).pc = .post ∨ (preAct (beginCycle s)).pc = .lowWait
  unfold preAct
  split
  · exact .inl rfl
  · exact .inr rfl

/-- A poll stays in its wait (R121, R123). -/
theorem lowPollCycle_pc (s : State) : (lowPollCycle s).pc = s.pc := waitTick_pc (cycleCount (beginCycle s))

/-- ADVANCE goes to another low wait or to POST (R126). -/
theorem advance_pc (s : State) : (advance s).pc = .lowWait ∨ (advance s).pc = .post := by
  rcases advance_cases s with ⟨-, h⟩ | ⟨-, -, h⟩ | ⟨-, -, h⟩ <;> rw [h]
  exacts [.inl rfl, .inr rfl, .inl rfl]

theorem fallCycle_pc (s : State) : (fallCycle s).pc = .lowWait ∨ (fallCycle s).pc = .post :=
  advance_pc (fallEdge (beginCycle s))

theorem nopCycle_pc (s : State) : (nopCycle s).pc = s.pc := rfl
theorem acceptCycle_pc (s : State) : (acceptCycle s).pc = .pre := rfl
theorem riseCycle_pc (s : State) : (riseCycle s).pc = .highWait := rfl
theorem postCycle_pc (s : State) : (postCycle s).pc = .idle := rfl

/-- ADVANCE touches no pin. -/
theorem advance_pin (s : State) : (advance s).pin = s.pin := by
  rcases advance_cases s with ⟨-, h⟩ | ⟨-, -, h⟩ | ⟨-, -, h⟩ <;> rw [h] <;> rfl

/-- ADVANCE does not count polls. -/
theorem advance_w (s : State) : (advance s).regs.w = s.regs.w := by
  rcases advance_cases s with ⟨-, h⟩ | ⟨-, -, h⟩ | ⟨-, -, h⟩ <;> rw [h] <;> rfl

/-- PRE touches no pin (R102). -/
theorem preCycle_pin (s : State) : (preCycle s).pin = s.pin := by
  show (preAct (beginCycle s)).pin = s.pin
  unfold preAct
  split <;> rfl

/-- PRE clears the poll count (R102). -/
theorem preCycle_w (s : State) : (preCycle s).regs.w = 0 := by
  show (preAct (beginCycle s)).regs.w = 0
  unfold preAct
  split <;> rfl

/-- FALL drives the pins of PINMASK low (R124). -/
theorem fallCycle_pin (s : State) : (fallCycle s).pin = drivePins s.pin s.regs.pinMask false :=
  advance_pin (fallEdge (beginCycle s))

/-- FALL clears the poll count (R124). -/
theorem fallCycle_w (s : State) : (fallCycle s).regs.w = 0 := advance_w (fallEdge (beginCycle s))

/-- A poll changes no register but W. -/
theorem lowPollCycle_regs (s : State) : (lowPollCycle s).regs = { s.regs with w := (lowPollCycle s).regs.w } :=
  waitTick_regs (cycleCount (beginCycle s))

theorem lowPollCycle_pin (s : State) : (lowPollCycle s).pin = s.pin := waitTick_pin (cycleCount (beginCycle s))

/-- After a poll W is at most the threshold (R29). -/
theorem lowPollCycle_w_le (s : State) : (lowPollCycle s).regs.w.toNat ≤ s.params.wdtThresh :=
  waitTick_w_le (cycleCount (beginCycle s))

/-- A poll clears W or counts one more (R147). -/
theorem lowPollCycle_w (s : State) :
    (lowPollCycle s).regs.w = 0 ∨ (lowPollCycle s).regs.w = s.regs.w + 1 := by
  show (waitTick (cycleCount (beginCycle s))).regs.w = 0 ∨ (waitTick (cycleCount (beginCycle s))).regs.w = _
  unfold waitTick
  split
  · exact .inl rfl
  · exact .inr rfl

/-- A step of the engine leaves the pins or drives those of PINMASK to one level (R32, R145). -/
theorem engineStep_pin (s : State) :
    (engineStep s).pin = s.pin ∨ ∃ level, (engineStep s).pin = drivePins s.pin s.regs.pinMask level := by
  apply engineStep_elim
    (P := fun t => t.pin = s.pin ∨ ∃ level, t.pin = drivePins s.pin s.regs.pinMask level)
  case reset | nop | accept | post => intros; exact .inl rfl
  case pre => intro _; exact .inl (preCycle_pin s)
  case lowPoll | highPoll => intros; exact .inl (lowPollCycle_pin s)
  case rise => intro _; exact .inr ⟨true, rfl⟩
  case fall => intro _; exact .inr ⟨false, fallCycle_pin s⟩

end Sys2Proof.Machine
end

section
/-! The invariants of the reachable states (R25, R38, R130), phase by phase. -/

namespace Sys2Proof.Machine

/-- R38 (a) and (d) as they hold inside a wait. -/
def InWait (s : State) : Prop :=
  OneHotByte s.regs.bitMask ∧ s.regs.byteIdx.toNat < s.regs.length.toNat ∧
    s.regs.cur = s.mem.read (s.regs.base + s.regs.byteIdx).toNat ∧ s.regs.w.toNat ≤ s.params.wdtThresh

/-- What the engine's invariants ask in each phase. -/
def PhaseInv (s : State) : Prop :=
  match s.pc with
  | .idle => s.irqDisable = false
  | .pre => s.irqDisable = true
  | .lowWait => s.irqDisable = true ∧ InWait s ∧ (FirstBit s ∨ PinsLow s)
  | .highWait => s.irqDisable = true ∧ InWait s ∧ PinsHigh s
  | .post => s.irqDisable = true ∧ (s.regs.length = 0 ∨ PinsLow s)
  | .code5 => False
  | .code6 => False
  | .code7 => False

/-- The invariants are the phase's own part and memory's form. -/
theorem machineInv_iff (s : State) : MachineInv s ↔ PhaseInv s ∧ MemoryForm s := by
  unfold MachineInv PhaseInv MemoryForm InWait PositionInv PollCountInv PinInv Waiting IrqInv Phase.legal
  cases s.pc <;> simp <;> tauto

theorem phaseInv_idle {s : State} (hp : s.pc = .idle) : PhaseInv s ↔ s.irqDisable = false := by
  simp [PhaseInv, hp]

theorem phaseInv_pre {s : State} (hp : s.pc = .pre) : PhaseInv s ↔ s.irqDisable = true := by
  simp [PhaseInv, hp]

theorem phaseInv_lowWait {s : State} (hp : s.pc = .lowWait) :
    PhaseInv s ↔ s.irqDisable = true ∧ InWait s ∧ (FirstBit s ∨ PinsLow s) := by
  simp [PhaseInv, hp]

theorem phaseInv_highWait {s : State} (hp : s.pc = .highWait) :
    PhaseInv s ↔ s.irqDisable = true ∧ InWait s ∧ PinsHigh s := by
  simp [PhaseInv, hp]

theorem phaseInv_post {s : State} (hp : s.pc = .post) :
    PhaseInv s ↔ s.irqDisable = true ∧ (s.regs.length = 0 ∨ PinsLow s) := by
  simp [PhaseInv, hp]

/-- The start and the end of a cycle change nothing that the phase's part speaks of. -/
theorem PhaseInv.cycle {act : State → State} {s : State} (h : PhaseInv (act (beginCycle s))) :
    PhaseInv (cycle act s) := h

/-- Inside a wait, START and a bounded W may change. -/
theorem InWait.congr {s t : State} (h : InWait s)
    (hregs : t.regs = { s.regs with startTime := t.regs.startTime, w := t.regs.w }) (hmem : t.mem = s.mem)
    (hw : t.regs.w.toNat ≤ t.params.wdtThresh) : InWait t := by
  obtain ⟨hbit, hidx, hcur, -⟩ := h
  refine ⟨?_, ?_, ?_, hw⟩
  · rw [hregs]; exact hbit
  · rw [hregs]; exact hidx
  · rw [hregs, hmem]; exact hcur

/-- The next lower bit of a one-hot byte is one-hot, unless there is none (R126). -/
theorem OneHotByte.shiftRight_one {b : Byte} (h : OneHotByte b) (hb : b >>> 1 ≠ 0) : OneHotByte (b >>> 1) := by
  unfold OneHotByte at *
  rcases h with rfl | rfl | rfl | rfl | rfl | rfl | rfl | rfl
  case inr.inr.inr.inr.inr.inr.inr => exact absurd rfl hb
  all_goals decide

/-- PRE enters POST with LENGTH = 0, or the first low wait at the payload's first bit (R102, R103). -/
theorem preAct_phaseInv {s : State} (hirq : s.irqDisable = true) : PhaseInv (preAct s) := by
  unfold preAct
  split
  · next hlen => exact (phaseInv_post rfl).2 ⟨hirq, .inl hlen⟩
  · next hlen =>
    have hpos : 0 < s.regs.length.toNat := Nat.pos_of_ne_zero fun h0 => hlen (BitVec.eq_of_toNat_eq h0)
    have hcur : memValue s.regs.base s = s.mem.read (s.regs.base + 0#32).toNat := by
      rw [BitVec.add_zero]; rfl
    exact (phaseInv_lowWait rfl).2 ⟨hirq, ⟨.inl rfl, hpos, hcur, Nat.zero_le _⟩, .inl ⟨rfl, rfl⟩⟩

/-- The rising edge enters the high wait with the pins high (R122). -/
theorem riseAct_phaseInv {s : State} (hirq : s.irqDisable = true) (hwait : InWait s) : PhaseInv (riseAct s) :=
  (phaseInv_highWait rfl).2 ⟨hirq, hwait.congr rfl rfl (Nat.zero_le _), drivePins_high _ _⟩

/-- ADVANCE after a falling edge enters a low wait at the next bit or byte, or POST, with the pins low (R126). -/
theorem advance_phaseInv {s : State} (hirq : s.irqDisable = true) (hwait : InWait s) (hlow : PinsLow s) :
    PhaseInv (advance s) := by
  obtain ⟨hbit, hidx, hcur, hw⟩ := hwait
  rcases advance_cases s with ⟨hmore, h⟩ | ⟨-, -, h⟩ | ⟨-, hlast, h⟩ <;> rw [h]
  · exact (phaseInv_lowWait rfl).2 ⟨hirq, ⟨hbit.shiftRight_one hmore, hidx, hcur, hw⟩, .inr hlow⟩
  · exact (phaseInv_post rfl).2 ⟨hirq, .inr hlow⟩
  · have hne : s.regs.byteIdx.toNat + 1 ≠ s.regs.length.toNat := of_decide_eq_false hlast
    have hnext : (s.regs.byteIdx + 1).toNat < s.regs.length.toNat := by
      rw [BitVec.toNat_add]
      exact (Nat.mod_le _ _).trans_lt (by simp; omega)
    have hfetch : memValue (nextByteAddr s) s = s.mem.read (s.regs.base + (s.regs.byteIdx + 1)).toNat := by
      rw [← BitVec.add_assoc]; rfl
    exact (phaseInv_lowWait rfl).2 ⟨hirq, ⟨.inl rfl, hnext, hfetch, hw⟩, .inr hlow⟩

/-- The falling edge leaves the pins low for ADVANCE (R124). -/
theorem fallAct_phaseInv {s : State} (hirq : s.irqDisable = true) (hwait : InWait s) : PhaseInv (fallAct s) :=
  advance_phaseInv hirq (hwait.congr (t := fallEdge s) rfl rfl (Nat.zero_le _)) (drivePins_low _ _)

/-- A poll stays inside its wait. -/
theorem lowPollCycle_inWait {s : State} (h : InWait s) : InWait (lowPollCycle s) :=
  h.congr (by rw [lowPollCycle_regs]) (lowPollCycle_law s).mem
    ((lowPollCycle_w_le s).trans_eq (by rw [(lowPollCycle_law s).params]))

/-- A poll changes W and the clock side of the state, which the phase's part bounds or does not look at. -/
theorem lowPollCycle_phaseInv {s : State} (hp : Waiting s) (h : PhaseInv s) : PhaseInv (lowPollCycle s) := by
  have hpc := lowPollCycle_pc s
  have hirq' : (lowPollCycle s).irqDisable = s.irqDisable := waitTick_irqDisable (cycleCount (beginCycle s))
  rcases hp with hp | hp
  · obtain ⟨hirq, hwait, hpins⟩ := (phaseInv_lowWait hp).1 h
    refine (phaseInv_lowWait (hpc.trans hp)).2 ⟨hirq'.trans hirq, lowPollCycle_inWait hwait, ?_⟩
    unfold FirstBit PinsLow at *
    rw [lowPollCycle_regs, lowPollCycle_pin]
    exact hpins
  · obtain ⟨hirq, hwait, hpins⟩ := (phaseInv_highWait hp).1 h
    refine (phaseInv_highWait (hpc.trans hp)).2 ⟨hirq'.trans hirq, lowPollCycle_inWait hwait, ?_⟩
    unfold PinsHigh at *
    rw [lowPollCycle_regs, lowPollCycle_pin]
    exact hpins

/-- RESET is idle with interrupts enabled (R210). -/
theorem resetCycle_phaseInv (s : State) : PhaseInv (resetCycle s) := (phaseInv_idle rfl).2 rfl

/-- Every step of the engine keeps the phase's part, micro-operation by micro-operation. -/
theorem engineStep_phaseInv {s : State} (h : PhaseInv s) : PhaseInv (engineStep s) := by
  apply engineStep_elim (P := PhaseInv)
  case reset => intro _; exact resetCycle_phaseInv s
  case nop => intro _; exact h
  case accept => intro _; exact (phaseInv_pre rfl).2 rfl
  case pre => intro hp; exact PhaseInv.cycle (preAct_phaseInv ((phaseInv_pre hp).1 h))
  case lowPoll => intro hp _; exact lowPollCycle_phaseInv (.inl hp) h
  case rise =>
    intro hp
    obtain ⟨hirq, hwait, -⟩ := (phaseInv_lowWait hp).1 h
    exact PhaseInv.cycle (riseAct_phaseInv hirq hwait)
  case highPoll => intro hp _; exact lowPollCycle_phaseInv (.inr hp) h
  case fall =>
    intro hp
    obtain ⟨hirq, hwait, -⟩ := (phaseInv_highWait hp).1 h
    exact PhaseInv.cycle (fallAct_phaseInv hirq hwait)
  case post => intro _; exact (phaseInv_idle rfl).2 rfl

/-- In IDLE the phase's part is the flag alone, which the host cannot write. -/
theorem HostPart.phaseInv {s u : State} (hp : s.pc = .idle) (hu : HostPart s u) (h : PhaseInv s) : PhaseInv u :=
  (phaseInv_idle (hu.pc.trans hp)).2 (hu.irqDisable.trans ((phaseInv_idle hp).1 h))

/-- Settles O52: the phase's part is kept by the host in IDLE and by every engine step, memory's form by every step. -/
theorem stepKeepsInvariant : Obligations.StepKeepsInvariant := by
  unfold Obligations.StepKeepsInvariant
  intro s t hs h
  obtain ⟨hphase, hform⟩ := (machineInv_iff s).1 hs
  have hphase' : PhaseInv t :=
    step_keeps (fun _ _ hp hu => HostPart.phaseInv hp hu) (fun _ => engineStep_phaseInv) h hphase
  exact (machineInv_iff t).2 ⟨hphase', step_memoryForm h hform⟩

/-- Settles O51: after reset the engine is idle with interrupts enabled, memory empty and no buffer there. -/
theorem invariantAtReset : Obligations.InvariantAtReset := by
  unfold Obligations.InvariantAtReset
  have hform : MemoryForm State.reset := ⟨reset_mem_wf, rfl, Nat.zero_le _⟩
  exact ⟨(machineInv_iff _).2 ⟨(phaseInv_idle rfl).2 rfl, hform⟩, by decide⟩

end Sys2Proof.Machine
end

section
/-! One step per CLK cycle and its frame (R20, R33, R34). -/

namespace Sys2Proof.Machine

/-- A cycle whose action leaves the countdown alone, unless it resets the watchdog, moves it as R34 says. -/
theorem cycle_wdtElapsed {act : State → State} {s : State}
    (h : (act (beginCycle s)).out.wdtReset = false → (act (beginCycle s)).wdtElapsed = s.wdtElapsed) :
    (cycle act s).wdtElapsed = if (cycle act s).out.wdtReset then 0 else s.wdtElapsed + 1 := by
  show (if (act (beginCycle s)).out.wdtReset then 0 else (act (beginCycle s)).wdtElapsed + 1) =
    if (act (beginCycle s)).out.wdtReset then 0 else s.wdtElapsed + 1
  cases hw : (act (beginCycle s)).out.wdtReset with
  | true => rfl
  | false => rw [h hw]

/-- PRE resets the watchdog (R102). -/
theorem preAct_wdtReset (s : State) : (preAct s).out.wdtReset = true := by
  unfold preAct
  split <;> rfl

/-- WaitTick leaves the countdown alone, unless it resets the watchdog (R147). -/
theorem waitTick_wdtElapsed {s : State} (h : (waitTick s).out.wdtReset = false) :
    (waitTick s).wdtElapsed = s.wdtElapsed := by
  unfold waitTick at *
  split at h
  · cases h
  · next hw => rw [if_neg hw]

/-- ADVANCE leaves the countdown alone (R126). -/
theorem advance_wdtElapsed (s : State) : (advance s).wdtElapsed = s.wdtElapsed := by
  rcases advance_cases s with ⟨-, h⟩ | ⟨-, -, h⟩ | ⟨-, -, h⟩ <;> rw [h] <;> rfl

/-- Every step of the engine restarts the hidden countdown with WDT_RESET and counts the cycle without it (R34). -/
theorem engineStep_wdtElapsed (s : State) :
    (engineStep s).wdtElapsed = if (engineStep s).out.wdtReset then 0 else s.wdtElapsed + 1 := by
  apply engineStep_elim (P := fun t => t.wdtElapsed = if t.out.wdtReset then 0 else s.wdtElapsed + 1)
  case reset | nop | accept | rise | post => intros; rfl
  case pre => intro _; exact cycle_wdtElapsed fun h => by simp [preAct_wdtReset] at h
  case lowPoll | highPoll => intros; exact cycle_wdtElapsed (act := lowPollAct) fun h => waitTick_wdtElapsed h
  case fall => intro _; exact cycle_wdtElapsed fun _ => advance_wdtElapsed (fallEdge (beginCycle s))

/-- What every step of the engine does beside its micro-operation. -/
theorem engineStep_frame (s : State) : CycleFrame s (engineStep s) := by
  have hl := engineStep_law s
  exact ⟨hl.ccount, hl.stepNo, hl.inp, hl.upcoming, hl.irqPending, engineStep_wdtElapsed s, fun a => by rw [hl.mem],
    hl.fb, hl.ret, hl.hostQueue, hl.pinOutput, hl.params⟩

/-- Only a host call or a pseudo-operation can be refused (R106, R166). -/
theorem exec_completes {i : Instr} (s : State) (hhost : i.format ≠ .hostcall) (hpseudo : i.format ≠ .pseudo) :
    ∃ t, exec i s = .next t := by
  cases i with
  | fbInitialize | overwriteLed | overwriteRange | mergeLed | mergeRange | readLed | shiftRight | shiftLeft
  | toWireOrderInPlace | asWireOrder => exact absurd rfl hhost
  | flush | writeRgb | writeGrb => exact absurd rfl hpseudo
  | _ => exact ⟨_, rfl⟩

/-- Settles O7: where the host has no move the step is the engine's, which obeys the law of a cycle. -/
theorem engineAlwaysSteps : Obligations.EngineAlwaysSteps := by
  unfold Obligations.EngineAlwaysSteps
  refine ⟨fun s hs => ?_, fun i s hhost hpseudo => exec_completes s hhost hpseudo⟩
  rw [← hostMayMove_eq_false_iff] at hs
  exact ⟨engineStep s, step_engine hs, engineStep_frame s⟩

end Sys2Proof.Machine
end

section
/-! Whole-machine rules of a step: the transitions of pc (R23), the pins of other drivers (R32), and the polls of a wait
(R29, R148). -/

namespace Sys2Proof.Machine

/-- The ten transitions of R23. -/
def phaseTransitions : List (Phase × Phase) :=
  [(.idle, .idle), (.idle, .pre), (.pre, .lowWait), (.pre, .post), (.lowWait, .lowWait), (.lowWait, .highWait),
    (.highWait, .highWait), (.highWait, .lowWait), (.highWait, .post), (.post, .idle)]

/-- From a legal phase the engine makes one of the ten, or goes to IDLE on RST. -/
theorem engineStep_transition {s : State} (hl : Phase.legal s.pc) :
    (s.inp.rst = true ∧ (engineStep s).pc = .idle) ∨ (s.pc, (engineStep s).pc) ∈ phaseTransitions := by
  apply engineStep_elim
    (P := fun t => (s.inp.rst = true ∧ t.pc = .idle) ∨ (s.pc, t.pc) ∈ phaseTransitions)
  case reset =>
    rintro (hr | hill)
    · exact .inl ⟨hr, rfl⟩
    · exact absurd hl hill
  case nop => intro hp; right; rw [nopCycle_pc, hp]; decide
  case accept => intro hp; right; rw [hp, acceptCycle_pc]; decide
  case pre => intro hp; right; rw [hp]; rcases preCycle_pc s with h | h <;> rw [h] <;> decide
  case lowPoll | highPoll => intro hp _; right; rw [lowPollCycle_pc, hp]; decide
  case rise => intro hp; right; rw [hp, riseCycle_pc]; decide
  case fall => intro hp; right; rw [hp]; rcases fallCycle_pc s with h | h <;> rw [h] <;> decide
  case post => intro hp; right; rw [hp, postCycle_pc]; decide

/-- Settles O54: the host's part keeps pc in IDLE, the rest is the engine's transition. -/
theorem legalTransitions : Obligations.LegalTransitions := by
  unfold Obligations.LegalTransitions
  intro s t hl h
  by_cases hp : s.pc = .idle
  · obtain ⟨u, hu, rfl | rfl⟩ := step_hostThenEngine h
    · right
      rw [hu.pc, hp]
      decide
    · have ht := engineStep_transition (s := u) (hu.pc ▸ hl)
      rwa [hu.rst, hu.pc] at ht
  · rw [step_busy hp] at h
    cases h
    exact engineStep_transition hl

/-- Settles O55: a busy step is the engine's, which drives the pins of PINMASK alone and writes no memory. -/
theorem pinsOutsideMaskUntouched : Obligations.PinsOutsideMaskUntouched := by
  unfold Obligations.PinsOutsideMaskUntouched
  intro s t hp h
  rw [step_busy hp] at h
  cases h
  refine ⟨fun p _ hmask => ?_, fun x => by rw [(engineStep_law s).mem]⟩
  rcases engineStep_pin s with hpin | ⟨level, hpin⟩
  · rw [hpin]
  · rw [hpin, drivePins_getLsbD, hmask]
    exact if_neg (by decide)

/-- With W cleared the polls are within any elapsed count. -/
theorem pollsWithinElapsed_of_zero {s : State} (h : s.regs.w = 0) : PollsWithinElapsed s := fun _ => by
  rw [h]
  exact BitVec.le_def.2 (Nat.zero_le _)

/-- Outside the waits there is nothing to bound. -/
theorem pollsWithinElapsed_of_idle {s : State} (h : s.pc = .idle) : PollsWithinElapsed s := fun hw => by
  rcases hw with hw | hw <;> rw [h] at hw <;> cases hw

/-- A poll adds one cycle to the elapsed count (R133). -/
theorem elapsed_lowPollCycle (s : State) : elapsed (lowPollCycle s) = elapsed s + 1 := by
  unfold elapsed
  rw [lowPollCycle_regs, (lowPollCycle_law s).ccount, BitVec.add_sub_comm]

/-- A poll counts at most the cycle it takes. The wait is not over, so the elapsed count does not wrap. -/
theorem lowPollCycle_pollsWithinElapsed {s : State} {limit : CycleWord} (hover : ¬ limit ≤ elapsed s)
    (h : s.regs.w ≤ elapsed s) : PollsWithinElapsed (lowPollCycle s) := by
  rcases lowPollCycle_w s with hw | hw
  · exact pollsWithinElapsed_of_zero hw
  · intro _
    rw [hw, elapsed_lowPollCycle]
    bv_omega

/-- Every step of the engine keeps W within the elapsed count. -/
theorem engineStep_pollsWithinElapsed {s : State} (h : PollsWithinElapsed s) : PollsWithinElapsed (engineStep s) := by
  apply engineStep_elim (P := PollsWithinElapsed)
  case reset | post => intro _; exact pollsWithinElapsed_of_idle rfl
  case nop => intro hp; exact pollsWithinElapsed_of_idle hp
  case accept => rintro _ (hw | hw) <;> cases hw
  case pre => intro _; exact pollsWithinElapsed_of_zero (preCycle_w s)
  case lowPoll => intro hp hover; exact lowPollCycle_pollsWithinElapsed (of_decide_eq_false hover) (h (.inl hp))
  case rise => intro _; exact pollsWithinElapsed_of_zero rfl
  case highPoll => intro hp hover; exact lowPollCycle_pollsWithinElapsed (of_decide_eq_false hover) (h (.inr hp))
  case fall => intro _; exact pollsWithinElapsed_of_zero (fallCycle_w s)

/-- Settles O59: the host moves in IDLE, where nothing is claimed, and every engine step keeps the bound. -/
theorem pollsStayWithinElapsed : Obligations.PollsStayWithinElapsed := by
  unfold Obligations.PollsStayWithinElapsed
  intro s t hs h
  exact step_keeps (fun _ _ hp hu _ => pollsWithinElapsed_of_idle (hu.pc.trans hp))
    (fun _ => engineStep_pollsWithinElapsed) h hs

end Sys2Proof.Machine
end

section
/-! A launch's first two steps, ACCEPT and PRE, and the registers they leave (R37, R100, R102). -/

namespace Sys2Proof.Machine

/-- A command at an idle engine is accepted (R100). -/
theorem step_accept {s : State} (hp : s.pc = .idle) (hstart : s.inp.start = true) (hr : s.inp.rst = false) :
    step s = .next (acceptCycle s) := by
  rw [step_strobe hstart]
  unfold engineStep
  simp [hp, hstart, hr]

/-- The prologue's step (R102). -/
theorem step_pre {s : State} (hp : s.pc = .pre) (hr : s.inp.rst = false) : step s = .next (preCycle s) := by
  rw [step_busy (by simp [hp])]
  unfold engineStep
  simp [hp, hr]

/-- With no reset scheduled a launch runs ACCEPT and PRE. -/
theorem run_two_launch {s : State} (hp : s.pc = .idle) (hstart : s.inp.start = true) (hn : NoReset s) :
    run 2 s = .next (preCycle (acceptCycle s)) := by
  have hn' : NoReset (acceptCycle s) := hn.next (acceptCycle_law s)
  rw [run_succ 1 (step_accept hp hstart hn.1), run_succ 0 (step_pre rfl hn'.1), run_zero]

/-- PRE of an empty transmission (R103). -/
theorem preAct_empty {s : State} (h : s.regs.length = 0) :
    preAct s = { preInit (wdtReset s) with pc := .post } := if_pos h

/-- PRE of a transmission with a payload (R102). -/
theorem preAct_payload {s : State} (h : s.regs.length ≠ 0) : preAct s = preFetch (preInit (wdtReset s)) := if_neg h

/-- With a payload ACCEPT and PRE write all eleven registers. -/
theorem launch_payload_regs (s : State) (r : Regs) (h : s.inp.lengthIn ≠ 0) :
    preCycle (acceptCycle s) = preCycle (acceptCycle { s with regs := r }) := by
  unfold preCycle cycle
  rw [preAct_payload (s := beginCycle (acceptCycle s)) h,
    preAct_payload (s := beginCycle (acceptCycle { s with regs := r })) h]
  rfl

/-- Without one they write all but CUR and BITMASK (R103). -/
theorem launch_empty_regs (s : State) (r : Regs) (h : s.inp.lengthIn = 0) :
    preCycle (acceptCycle s) =
      { preCycle (acceptCycle { s with regs := r }) with
        regs := { (preCycle (acceptCycle { s with regs := r })).regs with
          cur := (preCycle (acceptCycle s)).regs.cur, bitMask := (preCycle (acceptCycle s)).regs.bitMask } } := by
  unfold preCycle cycle
  rw [preAct_empty (s := beginCycle (acceptCycle s)) h,
    preAct_empty (s := beginCycle (acceptCycle { s with regs := r })) h]
  rfl

/-- Settles O58: both runs are ACCEPT and PRE, which overwrite the registers the engines differ in. -/
theorem noStateAcrossCalls : Obligations.NoStateAcrossCalls := by
  unfold Obligations.NoStateAcrossCalls
  intro s r hp hstart hn
  exact ⟨_, _, run_two_launch hp hstart hn, run_two_launch (s := { s with regs := r }) hp hstart hn,
    launch_payload_regs s r, launch_empty_regs s r⟩

end Sys2Proof.Machine
end

section
/-! The primitives (R62, R140 to R149): what each leaves alone, and the byte MemRead returns. -/

namespace Sys2Proof.Machine

/-- A primitive is an action inside a step: it appends its event and touches neither memory nor the clock. -/
theorem exec_primitive_actFrame {i : Instr} {s t : State} (hi : i.format = .primitive) (h : exec i s = .next t) :
    ActFrame s t := by
  cases i with
  | irqLock => cases h; exact .of_events [.irqLock] rfl rfl rfl rfl rfl rfl rfl rfl rfl rfl rfl rfl
  | irqUnlock => cases h; exact .of_events [.irqUnlock] rfl rfl rfl rfl rfl rfl rfl rfl rfl rfl rfl rfl
  | gpioWrite mask level =>
    cases h; exact .of_events [.pinWrite mask level] rfl rfl rfl rfl rfl rfl rfl rfl rfl rfl rfl rfl
  | wdtReset => cases h; exact .of_events [.wdtReset] rfl rfl rfl rfl rfl rfl rfl rfl rfl rfl rfl rfl
  | waitTick => cases h; exact waitTick_frame s
  | cycleCount => cases h; exact cycleCount_frame s
  | memRead addr =>
    cases h; exact .of_events [.memRead addr (memValue addr s)] rfl rfl rfl rfl rfl rfl rfl rfl rfl rfl rfl rfl
  | _ => cases hi

/-- No primitive asks the platform for a value. -/
theorem exec_primitive_draws {i : Instr} {s t : State} (hi : i.format = .primitive) (h : exec i s = .next t) :
    t.draws = s.draws := by
  cases i with
  | waitTick => cases h; exact waitTick_draws s
  | irqLock | irqUnlock | gpioWrite | wdtReset | cycleCount | memRead => cases h; rfl
  | _ => cases hi

/-- Every primitive has the frame of the head of spec file 42. -/
theorem exec_primitive_primitiveFrame {i : Instr} {s t : State} (hi : i.format = .primitive)
    (h : exec i s = .next t) : PrimitiveFrame s t := by
  have hact := exec_primitive_actFrame hi h
  exact ⟨hact.inp, hact.upcoming, hact.ccount, hact.stepNo, hact.irqPending, fun a => by rw [hact.mem], hact.fb,
    hact.ret, hact.hostQueue, hact.pinOutput, exec_primitive_draws hi h, hact.params⟩

/-- Settles O27: MemRead sets its three ports and appends its event, and the rest is every primitive's frame. -/
theorem memReadReturnsByte : Obligations.MemReadReturnsByte := by
  unfold Obligations.MemReadReturnsByte
  intro s addr
  have hexec : exec (.memRead addr) s = .next (memRead addr s) := rfl
  exact ⟨memRead addr s, hexec, rfl, rfl, rfl, memRead_out addr s, memRead_history addr s, memRead_regs addr s,
    memRead_pc addr s, memRead_irqDisable addr s, memRead_pin addr s, memRead_sample addr s,
    memRead_wdtElapsed addr s, exec_primitive_primitiveFrame rfl hexec⟩

end Sys2Proof.Machine
end

section
/-! Memory's form and the parameters, kept by every operation (R60, R162): only the operations of the host write memory,
and they keep its form. -/

namespace Sys2Proof.Machine

/-- Memory, the framebuffer's record and the parameters are the same. -/
structure PayloadFrame (s t : State) : Prop where
  mem : t.mem = s.mem
  fb : t.fb = s.fb
  params : t.params = s.params

theorem PayloadFrame.refl (s : State) : PayloadFrame s s := ⟨rfl, rfl, rfl⟩

theorem PayloadFrame.trans {s t u : State} (h : PayloadFrame s t) (k : PayloadFrame t u) : PayloadFrame s u :=
  ⟨k.mem.trans h.mem, k.fb.trans h.fb, k.params.trans h.params⟩

theorem ActFrame.payloadFrame {s t : State} (h : ActFrame s t) : PayloadFrame s t := ⟨h.mem, h.fb, h.params⟩

theorem CycleLaw.payloadFrame {s t : State} (h : CycleLaw s t) : PayloadFrame s t := ⟨h.mem, h.fb, h.params⟩

/-- A symbol is made of cycles (R80): what each of its four cycles keeps, the symbol keeps. -/
theorem symbol_induct {P : State → Prop} (t : CycleWord) (hreset : ∀ u, P u → P (resetCycle u))
    (hrise : ∀ u, P u → P (riseCycle u)) (hfall : ∀ u, P u → P (fallCycle u)) (hpoll : ∀ u, P u → P (lowPollCycle u))
    {s : State} (h : P s) : P (symbol t s) := by
  unfold symbol
  split
  · exact hreset s h
  · exact symbolLow_induct hpoll _ (symbolHigh_induct t hreset hfall hpoll _ (hrise s h))

theorem symbol_payloadFrame (t : CycleWord) (s : State) : PayloadFrame s (symbol t s) :=
  symbol_induct (P := PayloadFrame s) t (fun u h => h.trans (resetCycle_law u).payloadFrame)
    (fun u h => h.trans (riseCycle_law u).payloadFrame) (fun u h => h.trans (fallCycle_law u).payloadFrame)
    (fun u h => h.trans (lowPollCycle_law u).payloadFrame) (.refl s)

theorem exec_wire_payloadFrame {i : Instr} {s t : State} (hi : i.format = .wire) (h : exec i s = .next t) :
    PayloadFrame s t := by
  cases i with
  | sym0 => cases h; exact symbol_payloadFrame _ s
  | sym1 => cases h; exact symbol_payloadFrame _ s
  | _ => cases hi

/-- A micro-operation is one cycle, but for ADVANCE, which is the last part of one (R89). -/
theorem exec_uop_payloadFrame {i : Instr} {s t : State} (hi : i.format = .uop) (h : exec i s = .next t) :
    PayloadFrame s t := by
  cases i with
  | reset | unreachablePc5 | unreachablePc6 | unreachablePc7 => cases h; exact (resetCycle_law s).payloadFrame
  | nop => cases h; exact (nopCycle_law s).payloadFrame
  | accept => cases h; exact (acceptCycle_law s).payloadFrame
  | pre => cases h; exact (preCycle_law s).payloadFrame
  | lowPoll => cases h; exact (lowPollCycle_law s).payloadFrame
  | rise => cases h; exact (riseCycle_law s).payloadFrame
  | highPoll => cases h; exact (highPollCycle_law s).payloadFrame
  | fall => cases h; exact (fallCycle_law s).payloadFrame
  | advance => cases h; exact (advance_frame s).payloadFrame
  | post => cases h; exact (postCycle_law s).payloadFrame
  | _ => cases hi

/-- Of an operation that the host cannot issue, nothing reaches memory, the framebuffer or the parameters. -/
theorem exec_engine_payloadFrame {i : Instr} {s t : State} (hi : hostMayRun i = false) (h : exec i s = .next t) :
    PayloadFrame s t := by
  cases hf : i.format with
  | wire => exact exec_wire_payloadFrame hf h
  | uop => exact exec_uop_payloadFrame hf h
  | primitive => exact (exec_primitive_actFrame hf h).payloadFrame
  | cmd | hostcall | pseudo => simp [hostMayRun, hf] at hi

/-- An operation of the host is its own part and at most one step of the engine, and neither sets a parameter (R7). -/
theorem exec_hostRun_params {i : Instr} {s t : State} (hi : hostMayRun i = true) (h : exec i s = .next t) :
    t.params = s.params := by
  obtain ⟨u, hu, rfl | rfl⟩ := exec_hostRun_hostThenEngine hi h
  · exact hu.params
  · exact (engineStep_law u).params.trans hu.params

/-- Settles O53: the host's operations keep the form, and every other operation leaves memory alone. -/
theorem operationsKeepMemoryForm : Obligations.OperationsKeepMemoryForm := by
  unfold Obligations.OperationsKeepMemoryForm
  intro i s t h hwf hfb
  have hs : MemoryForm s := ⟨hwf, hfb⟩
  cases hi : hostMayRun i with
  | true =>
    obtain ⟨hwf', hfb'⟩ := exec_hostRun_memoryForm hi h hs
    exact ⟨hwf', hfb', exec_hostRun_params hi h⟩
  | false =>
    have hframe := exec_engine_payloadFrame hi h
    obtain ⟨hwf', hfb'⟩ := hs.congr hframe.mem hframe.fb
    exact ⟨hwf', hfb', hframe.params⟩

end Sys2Proof.Machine
end

section
/-! Decoding and encoding (R80, R86, R89): the fields of a key and of a command word, what each format's words decode
to, and the round trip. -/

namespace Sys2Proof

/-! ### The micro-operation key (R89) -/

/-- The 3-bit codes name the phases one to one (R23). -/
theorem Phase.ofCode_code (p : Phase) : Phase.ofCode p.code = p := by cases p <;> rfl

/-- Bit 0 is the condition, bits 3..1 are `pc` and bit 4 is RST. -/
theorem getLsbD_microOpKey (rst : Bool) (pc : Phase) (cond : Bool) (i : Nat) :
    (microOpKey rst pc cond).getLsbD i =
      if i < 1 then (BitVec.ofBool cond).getLsbD i else if i - 1 < 3 then pc.code.getLsbD (i - 1)
      else (BitVec.ofBool rst).getLsbD (i - 1 - 3) := by
  have h : (microOpKey rst pc cond).getLsbD i = _ :=
    BitVec.getLsbD_append (x := BitVec.ofBool rst ++ pc.code) (y := BitVec.ofBool cond) (i := i)
  rw [h, BitVec.getLsbD_append]

theorem microOpKey_rst (rst : Bool) (pc : Phase) (cond : Bool) : (microOpKey rst pc cond).getLsbD 4 = rst := by
  rw [getLsbD_microOpKey]
  simp

theorem microOpKey_cond (rst : Bool) (pc : Phase) (cond : Bool) : (microOpKey rst pc cond).getLsbD 0 = cond := by
  rw [getLsbD_microOpKey]
  simp

theorem microOpKey_code (rst : Bool) (pc : Phase) (cond : Bool) :
    (microOpKey rst pc cond).extractLsb' 1 3 = pc.code := by
  ext i hi
  rw [BitVec.getElem_extractLsb', getLsbD_microOpKey, if_neg (by omega), if_pos (by omega), Nat.add_sub_cancel_left,
    BitVec.getLsbD_eq_getElem hi]

/-- A key decodes to the row of the table it was built from. -/
theorem decodeKey_microOpKey (rst : Bool) (pc : Phase) (cond : Bool) :
    decodeKey (microOpKey rst pc cond) = decodeMicroOp rst pc cond := by
  rw [decodeKey, microOpKey_rst, microOpKey_code, microOpKey_cond, Phase.ofCode_code]

/-- With RST = 1 the rest of the key is not looked at (R210). -/
theorem decodeKey_rst {k : BitVec 5} (h : k.getLsbD 4 = true) : decodeKey k = .reset := if_pos h

/-! ### The command word (R86, R87) -/

theorem commandWord_op (op : Bool) (pm : PinMask) (b : Addr) (l : Len) :
    (commandWord op pm b l).getLsbD 80 = op := by
  rw [getLsbD_commandWord]
  simp

theorem commandWord_pinMask (op : Bool) (pm : PinMask) (b : Addr) (l : Len) :
    (commandWord op pm b l).extractLsb' 64 16 = pm := by
  ext i hi
  rw [BitVec.getElem_extractLsb', getLsbD_commandWord, if_neg (by omega), if_neg (by omega), if_pos (by omega),
    Nat.add_sub_cancel_left, BitVec.getLsbD_eq_getElem hi]

theorem commandWord_base (op : Bool) (pm : PinMask) (b : Addr) (l : Len) :
    (commandWord op pm b l).extractLsb' 32 32 = b := by
  ext i hi
  rw [BitVec.getElem_extractLsb', getLsbD_commandWord, if_neg (by omega), if_pos (by omega), Nat.add_sub_cancel_left,
    BitVec.getLsbD_eq_getElem hi]

theorem commandWord_length (op : Bool) (pm : PinMask) (b : Addr) (l : Len) :
    (commandWord op pm b l).extractLsb' 0 32 = l := by
  ext i hi
  rw [BitVec.getElem_extractLsb', getLsbD_commandWord, if_pos (by omega), Nat.zero_add, BitVec.getLsbD_eq_getElem hi]

theorem decodeCommand_transmit (pm : PinMask) (b : Addr) (l : Len) :
    decodeCommand (commandWord true pm b l) = .transmit pm b l := by
  rw [decodeCommand, commandWord_op, commandWord_pinMask, commandWord_base, commandWord_length, if_pos rfl]

theorem decodeCommand_nop (pm : PinMask) (b : Addr) (l : Len) :
    decodeCommand (commandWord false pm b l) = .nopCmd := by
  rw [decodeCommand, commandWord_op]
  rfl

/-! ### The words of each format -/

theorem decodeTableWord_key (k : BitVec 5) : decodeTableWord 5 k.toNat = some (decodeKey k) := by
  have h : decodeWord 5 k.toNat = .ok (decodeKey k) := by
    rw [decodeWord, if_neg (by decide), if_pos (by decide), if_pos k.isLt, BitVec.ofNat_toNat, BitVec.setWidth_eq]
  rw [decodeTableWord, h]

theorem decodeTableWord_command (w : BitVec 81) : decodeTableWord 81 w.toNat = some (decodeCommand w) := by
  have h : decodeWord 81 w.toNat = .ok (decodeCommand w) := by
    rw [decodeWord, if_neg (by decide), if_neg (by decide), if_pos (by decide), if_pos w.isLt, BitVec.ofNat_toNat,
      BitVec.setWidth_eq]
  rw [decodeTableWord, h]

/-- The key of a row stands for its micro-operation. -/
theorem decodeTableWord_microOpKey (rst : Bool) (pc : Phase) (cond : Bool) :
    decodeTableWord 5 (microOpKey rst pc cond).toNat = some (decodeMicroOp rst pc cond) := by
  rw [decodeTableWord_key, decodeKey_microOpKey]

/-- Everything a table word can be: a symbol, a key or a command word, with no bit above its width. -/
theorem decodeTableWord_cases {nbits w : Nat} {i : Instr} (h : decodeTableWord nbits w = some i) :
    (nbits = 1 ∧ i = decodeSymbol (w.testBit 0)) ∨
    ((nbits = 5 ∨ nbits = 8) ∧ i = decodeKey (BitVec.ofNat 5 w)) ∨
    ((nbits = 81 ∨ nbits = 88) ∧ i = decodeCommand (BitVec.ofNat 81 w)) := by
  unfold decodeTableWord decodeWord at h
  split at h
  · next j hj =>
    cases h
    split_ifs at hj with h1 _ h5 _ h81 _ <;> cases hj
    exacts [.inl ⟨h1, rfl⟩, .inr (.inl ⟨h5, rfl⟩), .inr (.inr ⟨h81, rfl⟩)]
  · cases h

/-! ### The round trip -/

/-- The bits of an operation decode to it. -/
theorem decodeTableWord_encode {i : Instr} {n w : Nat} (h : encode i = some (n, w)) :
    decodeTableWord n w = some i := by
  cases i with
  | transmit pm b l => cases h; rw [decodeTableWord_command, decodeCommand_transmit]
  | nopCmd => cases h; rw [decodeTableWord_command, decodeCommand_nop]
  | sym0 | sym1 => cases h; rfl
  | reset | nop | accept | pre | lowPoll | rise | highPoll | fall | post | unreachablePc5 | unreachablePc6
  | unreachablePc7 => cases h; exact decodeTableWord_microOpKey _ _ _
  | _ => cases h

/-- The formats CMD, WIRE and UOP have bits but for ADVANCE, which is not selected on its own, and the others have
none (R90, R126). -/
theorem encode_isSome_iff (i : Instr) :
    (encode i).isSome = true ↔ (i.format = .cmd ∨ i.format = .wire ∨ i.format = .uop) ∧ i ≠ .advance := by
  cases i <;> simp [encode, Instr.format]

/-- Settles O1: the words of each format decode to the operation they were built from. -/
theorem decodeEncodeIdentity : Obligations.DecodeEncodeIdentity := by
  unfold Obligations.DecodeEncodeIdentity
  exact ⟨fun _ _ _ h => decodeTableWord_encode h, encode_isSome_iff⟩

/-- Settles O3: a command word is read off field by field. -/
theorem commandWordFields : Obligations.CommandWordFields := by
  unfold Obligations.CommandWordFields
  exact ⟨decodeTableWord_command, by decide⟩

/-- Settles O4: each word is a literal. -/
theorem writtenOutWordsDecode : Obligations.WrittenOutWordsDecode := by
  unfold Obligations.WrittenOutWordsDecode
  decide

end Sys2Proof
end

section
/-! The row of R89 that a state selects, and the state in which a table word is the next to run (log entry 12). -/

namespace Sys2Proof.Machine

/-! ### The table of R89 -/

theorem nextMicroOp_of_not_rst {s : State} (hr : s.inp.rst = false) :
    nextMicroOp s = decodeMicroOp false s.pc (phaseCondition s) := by
  rw [nextMicroOp, hr]

/-- The condition of a low wait: the bit period is over. -/
theorem phaseCondition_lowWait {s : State} (hp : s.pc = .lowWait) :
    phaseCondition s = decide (s.regs.ttot ≤ s.ccount - s.regs.startTime) := by
  simp only [phaseCondition, hp]
  rfl

/-- The condition of a high wait: the selected bit's high time is over. -/
theorem phaseCondition_highWait {s : State} (hp : s.pc = .highWait) :
    phaseCondition s = decide ((if s.regs.cur &&& s.regs.bitMask ≠ 0 then s.regs.t1h else s.regs.t0h) ≤
      s.ccount - s.regs.startTime) := by
  simp only [phaseCondition, hp, highWaitOver, highTime, highTimeOf, dataBit, elapsed, decide_eq_true_eq]

/-- Settles O2: the key is read off bit by bit, and each row is `decodeMicroOp` at the phase and its condition. -/
theorem microOperationTable : Obligations.MicroOperationTable := by
  unfold Obligations.MicroOperationTable
  intro s e t
  refine ⟨fun hr => ?reset, fun hr => ?rows, ?key, ?keyRst, fun k => decodeKey_rst, by decide⟩
  case reset => rw [nextMicroOp, hr]; rfl
  case key => exact decodeKey_microOpKey _ _ _
  case keyRst => exact microOpKey_rst _ _ _
  case rows =>
    rw [nextMicroOp_of_not_rst hr]
    refine ⟨?nop, ?accept, ?_, ?lowPoll, ?rise, ?highPoll, ?fall, ?_, ?_, ?_, ?_⟩ <;> intro hp
    case nop | accept => intro hs; simp only [phaseCondition, hp, hs]; rfl
    case lowPoll => intro he; rw [phaseCondition_lowWait hp, hp, decide_eq_false (BitVec.not_le.2 he)]; rfl
    case rise => intro he; rw [phaseCondition_lowWait hp, hp, decide_eq_true he]; rfl
    case highPoll => intro he; rw [phaseCondition_highWait hp, hp, decide_eq_false (BitVec.not_le.2 he)]; rfl
    case fall => intro he; rw [phaseCondition_highWait hp, hp, decide_eq_true he]; rfl
    -- the phases without a condition
    all_goals rw [hp]; rfl

/-! ### A placed key (R89) -/

/-- Where the host has no move, a step runs the micro-operation of R89. -/
theorem step_nextMicroOp {s : State} (h : s.hostQueue = [] ∨ hostMayMove s = false) :
    step s = exec (nextMicroOp s) s := by
  unfold step
  rw [fetch_engine h]

theorem placeCondition_pc (cond : Bool) (s : State) : (placeCondition cond s).pc = s.pc := by
  unfold placeCondition
  split <;> rfl

theorem placeCondition_rst (cond : Bool) (s : State) : (placeCondition cond s).inp.rst = s.inp.rst := by
  unfold placeCondition
  split <;> rfl

/-- The placed condition selects the row of the phase, which in a phase without one does not look at it. -/
theorem decodeMicroOp_placeCondition (rst cond : Bool) (s : State) :
    decodeMicroOp rst s.pc (phaseCondition (placeCondition cond s)) = decodeMicroOp rst s.pc cond := by
  cases hp : s.pc with
  | idle => simp [phaseCondition, placeCondition, hp]
  | lowWait => cases cond <;> simp [phaseCondition, placeCondition, hp, lowWaitOver, elapsed]
  | highWait => cases cond <;> simp [phaseCondition, placeCondition, hp, highWaitOver, highTime, highTimeOf, elapsed]
  | _ => rfl

/-- In IDLE the placed condition is a command strobe or leaves the host no move. -/
theorem placeCondition_noHostMove (cond : Bool) (s : State) :
    (placeCondition cond s).hostQueue = [] ∨ hostMayMove (placeCondition cond s) = false := by
  rw [hostMayMove_eq_false_iff, placeCondition_pc]
  by_cases hp : s.pc = .idle
  · cases cond <;> simp [placeCondition, hp]
  · exact .inr (.inl hp)

theorem nextMicroOp_placeKey (k : BitVec 5) (s : State) : nextMicroOp (placeKey k s) = decodeKey k := by
  rw [nextMicroOp, placeKey, placeCondition_rst, placeCondition_pc, decodeMicroOp_placeCondition, decodeKey]

theorem step_placeKey (k : BitVec 5) (s : State) : step (placeKey k s) = exec (decodeKey k) (placeKey k s) := by
  rw [← nextMicroOp_placeKey k s]
  exact step_nextMicroOp (placeCondition_noHostMove _ _)

/-! ### A placed command word (R86) -/

/-- A placed command stands on the ports of an idle engine already: presenting it changes nothing. -/
theorem exec_placeCommand (w : BitVec 81) (s : State) :
    exec (decodeCommand w) (placeCommand w s) = .next (engineStep (placeCommand w s)) := by
  unfold decodeCommand placeCommand
  cases w.getLsbD 80 <;> rfl

theorem placeCommand_noHostMove (w : BitVec 81) (s : State) :
    (placeCommand w s).hostQueue = [] ∨ hostMayMove (placeCommand w s) = false := by
  rw [hostMayMove_eq_false_iff]
  unfold placeCommand
  cases w.getLsbD 80 <;> simp

theorem step_placeCommand (w : BitVec 81) (s : State) :
    step (placeCommand w s) = exec (decodeCommand w) (placeCommand w s) := by
  rw [exec_placeCommand, step_engine (placeCommand_noHostMove w s)]

/-! ### A placed word -/

theorem withFetchWord_key {nbits : Nat} (h : nbits = 5 ∨ nbits = 8) (w : Nat) (s : State) :
    s.withFetchWord nbits w = placeKey (BitVec.ofNat 5 w) s := by
  rw [State.withFetchWord, placeWord, if_neg (by omega), if_pos h]

theorem withFetchWord_command {nbits : Nat} (h : nbits = 81 ∨ nbits = 88) (w : Nat) (s : State) :
    s.withFetchWord nbits w = placeCommand (BitVec.ofNat 81 w) s := by
  rw [State.withFetchWord, placeWord, if_neg (by omega), if_neg (by omega), if_pos h]

/-- Settles O6: a key and a command word each run where they were placed. -/
theorem placedWordRuns : Obligations.PlacedWordRuns := by
  unfold Obligations.PlacedWordRuns
  intro s nbits w i hwire hi
  rcases decodeTableWord_cases hi with ⟨h1, -⟩ | ⟨hkey, rfl⟩ | ⟨hcmd, rfl⟩
  · exact absurd h1 hwire
  · rw [withFetchWord_key hkey]
    exact step_placeKey _ s
  · rw [withFetchWord_command hcmd]
    exact step_placeCommand _ s

end Sys2Proof.Machine
end

section
/-! RESET and the command words: a command at an idle engine is accepted or, with RST = 1, lost (R100, R194), and the
pseudo-operations end in one (R96). -/

namespace Sys2Proof.Machine

/-- A cycle that moves the hidden countdown as R34 says has the whole frame of a cycle. -/
theorem CycleLaw.frame {s t : State} (h : CycleLaw s t)
    (hw : t.wdtElapsed = if t.out.wdtReset then 0 else s.wdtElapsed + 1) : CycleFrame s t :=
  ⟨h.ccount, h.stepNo, h.inp, h.upcoming, h.irqPending, hw, fun a => by rw [h.mem], h.fb, h.ret, h.hostQueue,
    h.pinOutput, h.params⟩

/-- RESET and the three unreachable rows have one meaning (R93). -/
theorem exec_reset_rows {i : Instr}
    (h : i = .reset ∨ i = .unreachablePc5 ∨ i = .unreachablePc6 ∨ i = .unreachablePc7) (s : State) :
    exec i s = .next (resetCycle s) := by
  rcases h with rfl | rfl | rfl | rfl <;> rfl

/-- Settles O18: the cycle of RESET, which has no event and no strobe. -/
theorem resetGoesIdle : Obligations.ResetGoesIdle := by
  unfold Obligations.ResetGoesIdle
  intro s i hi
  exact ⟨resetCycle s, exec_reset_rows hi s, rfl, rfl, resetCycle_appends s, rfl, rfl, rfl, rfl, rfl,
    (resetCycle_law s).frame rfl⟩

/-! ### TRANSMIT (R86, R100) -/

/-- An idle engine out of reset accepts the command on its ports (R100). -/
theorem transmitWord_idle {s : State} (hp : s.pc = .idle) (hr : s.inp.rst = false) (pm : PinMask) (b : Addr) (l : Len) :
    transmitWord pm b l s = acceptCycle (driveCommand true pm b l s) := by
  simp [transmitWord, engineStep, hp, hr]

/-- With RST = 1 the command is lost (R194). -/
theorem transmitWord_rst {s : State} (hr : s.inp.rst = true) (pm : PinMask) (b : Addr) (l : Len) :
    transmitWord pm b l s = resetCycle (driveCommand true pm b l s) := engineStep_rst hr

/-- Settles O20: the cycle of ACCEPT with the operands on the ports. -/
theorem transmitIsAcceptedWhenIdle : Obligations.TransmitIsAcceptedWhenIdle := by
  unfold Obligations.TransmitIsAcceptedWhenIdle
  intro s pm b l hp hr
  refine ⟨acceptCycle (driveCommand true pm b l s), ?_, rfl, rfl, rfl, rfl, rfl, rfl, rfl, rfl,
    (acceptCycle_law _).frame rfl⟩
  rw [← transmitWord_idle hp hr]
  rfl

/-- A command changes no byte and no framebuffer record. -/
theorem transmitWord_payloadFrame (pm : PinMask) (b : Addr) (l : Len) (s : State) :
    PayloadFrame s (transmitWord pm b l s) :=
  let h := engineStep_law (driveCommand true pm b l s)
  ⟨h.mem, h.fb, h.params⟩

/-- At an idle engine its step writes no pin, whether it is accepted or lost. -/
theorem transmitWord_idle_pin {s : State} (hp : s.pc = .idle) (pm : PinMask) (b : Addr) (l : Len) :
    (transmitWord pm b l s).pin = s.pin := by
  cases hr : s.inp.rst with
  | false => rw [transmitWord_idle hp hr]; rfl
  | true => rw [transmitWord_rst hr]; rfl

/-- At an idle engine out of reset the command is accepted in its step, with the operands in their registers. -/
theorem transmitWord_accepted {s : State} (hp : s.pc = .idle) (hr : s.inp.rst = false) (pm : PinMask) (b : Addr)
    (l : Len) :
    (transmitWord pm b l s).pc = .pre ∧ (transmitWord pm b l s).irqDisable = true ∧
      Appends s (transmitWord pm b l s) [.irqLock] ∧ (transmitWord pm b l s).regs.pinMask = pm ∧
      (transmitWord pm b l s).regs.base = b ∧ (transmitWord pm b l s).regs.length = l := by
  rw [transmitWord_idle hp hr]
  exact ⟨rfl, rfl, rfl, rfl, rfl, rfl⟩

/-- Where RST is 1 the step of the command is RESET. -/
theorem transmitWord_lost {s : State} (hr : s.inp.rst = true) (pm : PinMask) (b : Addr) (l : Len) :
    (transmitWord pm b l s).pc = .idle ∧ (transmitWord pm b l s).irqDisable = false ∧
      Appends s (transmitWord pm b l s) [] := by
  rw [transmitWord_rst hr]
  exact ⟨rfl, rfl, .nil rfl⟩

/-! ### The pseudo-operations (R96) -/

/-- The framebuffer's length fits LENGTH: it is a multiple of 3, so it is not the whole address space. -/
theorem FramebufferInv.len_lt {s : State} (h : FramebufferInv s) : s.fb.len < 2 ^ 32 := by
  obtain ⟨h3, hfit⟩ := h
  omega

/-- Settles O38: `flush` is the command with the framebuffer's region as its operands. -/
theorem flushTransmitsFramebuffer : Obligations.FlushTransmitsFramebuffer := by
  unfold Obligations.FlushTransmitsFramebuffer
  rintro s pm ⟨hp, hd⟩
  have hkeep := transmitWord_payloadFrame pm s.fb.base (BitVec.ofNat 32 s.fb.len) s
  refine ⟨flush pm s, whenAlive_ready hp hd, rfl, hkeep.fb, transmitWord_idle_pin hp _ _ _,
    fun x => congrArg (·.read x) hkeep.mem, fun hr => ?_, fun hr => transmitWord_lost hr _ _ _⟩
  obtain ⟨hpc, hirq, hev, hpm, hb, hl⟩ := transmitWord_accepted hp hr pm s.fb.base (BitVec.ofNat 32 s.fb.len)
  have hlen : (flush pm s).regs.length.toNat = s.fb.len % 2 ^ 32 := by
    rw [flush, hl, BitVec.toNat_ofNat]
  exact ⟨hpc, hirq, hev, hpm, hb, hlen, fun hinv => hlen.trans (Nat.mod_eq_of_lt hinv.len_lt)⟩

/-- A call that is a plain change of state runs while the engine is idle. -/
theorem whenIdle_act {act : State → State} {s : State} (hp : s.pc = .idle) :
    whenIdle (fun t => .next (act t)) s = .next (act s) := whenIdle_ready hp

/-- A command after a host call: accepted out of reset, and lost where RST is 1. -/
theorem transmit_after_hostCall {s u : State} (hu : HostCallFrame s u) (hp : s.pc = .idle) (pm : PinMask) (b : Addr)
    (n : Len) :
    (s.inp.rst = false → (transmitWord pm b n u).pc = .pre) ∧
      (s.inp.rst = true → (transmitWord pm b n u).pc = .idle ∧ (transmitWord pm b n u).irqDisable = false ∧
        Appends s (transmitWord pm b n u) []) := by
  have hu := hu.hostPart
  refine ⟨fun hr => (transmitWord_accepted (hu.pc.trans hp) (hu.rst.trans hr) pm b n).1, fun hr => ?_⟩
  obtain ⟨hpc, hirq, hev⟩ := transmitWord_lost (hu.rst.trans hr) pm b n
  exact ⟨hpc, hirq, (Appends.nil hu.history).trans hu.stepNo hev⟩

/-- Settles O39: each one-shot runs its adapter call and then the command, which leaves the bytes of the call. -/
theorem oneShotExpansions : Obligations.OneShotExpansions := by
  unfold Obligations.OneShotExpansions
  intro s pm b n hp
  have hrgb := transmit_after_hostCall (toWireOrderInPlace_frame b s) hp pm b.addr n
  have hgrb := transmit_after_hostCall (asWireOrder_frame b s) hp pm b.addr n
  have hkeep := transmitWord_payloadFrame pm b.addr n
  exact ⟨⟨toWireOrderInPlace b s, writeRgb pm b n s, whenIdle_act hp, rfl, whenIdle_act (act := writeRgb pm b n) hp,
      (hkeep _).fb, hrgb.1, hrgb.2, fun x => congrArg (·.read x) (hkeep _).mem⟩,
    ⟨asWireOrder b s, writeGrb pm b n s, whenIdle_act hp, rfl, whenIdle_act (act := writeGrb pm b n) hp,
      (hkeep _).fb, hgrb.1, hgrb.2, fun x => congrArg (·.read x) (hkeep _).mem⟩⟩

end Sys2Proof.Machine
end

section
/-! The wire symbols (R80 to R85): what a symbol leaves alone, and that its waits are runs of the machine's steps. -/

namespace Sys2Proof.Machine

/-! ### The frame of a symbol -/

/-- Memory, the host's side, the pins' modes and the parameters are the same, and the history only grows. -/
structure BystanderFrame (s t : State) : Prop extends PayloadFrame s t where
  hostQueue : t.hostQueue = s.hostQueue
  pinOutput : t.pinOutput = s.pinOutput
  ret : t.ret = s.ret
  history : ∃ l, t.history = s.history ++ l

theorem BystanderFrame.refl (s : State) : BystanderFrame s s := ⟨.refl s, rfl, rfl, rfl, [], by simp⟩

/-- One more cycle keeps the frame. -/
theorem BystanderFrame.next {s u v : State} (h : BystanderFrame s u) (k : CycleLaw u v) : BystanderFrame s v := by
  obtain ⟨l, hl⟩ := h.history
  obtain ⟨m, hm⟩ := k.history
  exact ⟨h.toPayloadFrame.trans k.payloadFrame, k.hostQueue.trans h.hostQueue, k.pinOutput.trans h.pinOutput,
    k.ret.trans h.ret, _, by rw [hm, hl, List.append_assoc]⟩

theorem symbol_bystanderFrame (t : CycleWord) (s : State) : BystanderFrame s (symbol t s) :=
  symbol_induct (P := BystanderFrame s) t (fun u h => h.next (resetCycle_law u)) (fun u h => h.next (riseCycle_law u))
    (fun u h => h.next (fallCycle_law u)) (fun u h => h.next (lowPollCycle_law u)) (.refl s)

/-- Every pin outside the mask has the level it had. -/
def SameOutside (mask : PinMask) (s t : State) : Prop :=
  ∀ p, mask.getLsbD p = false → t.pin.getLsbD p = s.pin.getLsbD p

theorem SameOutside.of_pin {mask : PinMask} {s u v : State} (h : SameOutside mask s u) (hpin : v.pin = u.pin) :
    SameOutside mask s v := fun p hp => (congrArg (·.getLsbD p) hpin).trans (h p hp)

/-- Driving the pins of the mask leaves the others. -/
theorem SameOutside.drive {mask : PinMask} {s u v : State} {level : Bool} (h : SameOutside mask s u)
    (hpin : v.pin = drivePins u.pin mask level) : SameOutside mask s v := fun p hp => by
  rw [hpin, drivePins_getLsbD, hp]
  exact h p hp

/-- The high part of a symbol is polls and then RESET, FALL or, where the bound on its polls is met, nothing: what polls
keep, and what follows from it after the last cycle, holds at its end. -/
theorem symbolHigh_elim {P Q : State → Prop} (t : CycleWord) (hpoll : ∀ u, P u → P (highPollCycle u))
    (hreset : ∀ u, P u → Q (resetCycle u)) (hfall : ∀ u, P u → Q (fallCycle u)) (hstop : ∀ u, P u → Q u)
    (n : Nat) {s : State} (h : P s) : Q (symbolHigh t n s) := by
  induction n generalizing s with
  | zero => exact hstop s h
  | succ n ih =>
    unfold symbolHigh
    split
    · exact hreset s h
    · split
      · exact hfall s h
      · exact ih (hpoll s h)

/-- The falling edge drives the pins of the mask that the rising edge drove, since polls keep PINMASK. -/
theorem symbolHigh_sameOutside {mask : PinMask} {s u : State} (t : CycleWord) (n : Nat) (hmask : u.regs.pinMask = mask)
    (h : SameOutside mask s u) : SameOutside mask s (symbolHigh t n u) := by
  apply symbolHigh_elim (P := fun v => v.regs.pinMask = mask ∧ SameOutside mask s v) t
  case hpoll =>
    rintro v ⟨hv, hs⟩
    exact ⟨(congrArg Regs.pinMask (lowPollCycle_regs v)).trans hv, hs.of_pin (lowPollCycle_pin v)⟩
  case hreset => rintro v ⟨-, hs⟩; exact hs.of_pin rfl
  case hfall => rintro v ⟨hv, hs⟩; exact hs.drive (hv ▸ fallCycle_pin v)
  case hstop => rintro v ⟨-, hs⟩; exact hs
  case h => exact ⟨hmask, h⟩

theorem symbol_sameOutside (t : CycleWord) (s : State) : SameOutside s.regs.pinMask s (symbol t s) := by
  have hrefl : SameOutside s.regs.pinMask s s := fun _ _ => rfl
  have hrise : SameOutside s.regs.pinMask s (riseCycle s) := hrefl.drive (level := true) rfl
  unfold symbol
  split
  · exact hrefl.of_pin rfl
  · exact symbolLow_induct (fun u h => h.of_pin (lowPollCycle_pin u)) _ (symbolHigh_sameOutside t _ rfl hrise)

/-- A wire operation is a symbol of one of the two high times. -/
theorem exec_symbol {i : Instr} (hi : i = .sym0 ∨ i = .sym1) (s : State) : ∃ t, exec i s = .next (symbol t s) := by
  rcases hi with rfl | rfl
  exacts [⟨_, rfl⟩, ⟨_, rfl⟩]

/-- Settles O46: a symbol is made of cycles, which keep the frame, and drives no pin outside PINMASK. -/
theorem symbolFrame : Obligations.SymbolFrame := by
  unfold Obligations.SymbolFrame
  intro s i hi
  obtain ⟨t, ht⟩ := exec_symbol hi s
  have h := symbol_bystanderFrame t s
  exact ⟨symbol t s, ht, fun x => by rw [h.mem], h.fb, h.hostQueue, h.params, h.pinOutput, h.ret, h.history,
    fun p _ hp => symbol_sameOutside t s p hp⟩

/-! ### A symbol's waits as runs (R120) -/

theorem step_rise {s : State} (hp : s.pc = .lowWait) (hr : s.inp.rst = false) (ho : lowWaitOver s = true) :
    step s = .next (riseCycle s) := by
  rw [step_busy (by simp [hp]), engineStep]
  simp [hr, hp, ho]

theorem step_lowPoll {s : State} (hp : s.pc = .lowWait) (hr : s.inp.rst = false) (ho : lowWaitOver s = false) :
    step s = .next (lowPollCycle s) := by
  rw [step_busy (by simp [hp]), engineStep]
  simp [hr, hp, ho]

theorem step_fall {s : State} (hp : s.pc = .highWait) (hr : s.inp.rst = false)
    (ho : highWaitOver (highTime s) s = true) : step s = .next (fallCycle s) := by
  rw [step_busy (by simp [hp]), engineStep]
  simp [hr, hp, ho]

theorem step_highPoll {s : State} (hp : s.pc = .highWait) (hr : s.inp.rst = false)
    (ho : highWaitOver (highTime s) s = false) : step s = .next (lowPollCycle s) := by
  rw [step_busy (by simp [hp]), engineStep]
  simp [hr, hp, ho, highPollCycle_eq]

/-- A poll of a wait that is not over adds one to the elapsed count without a wrap. -/
theorem elapsed_lowPollCycle_toNat {s : State} {limit : CycleWord} (hn : NoReset s) (h : ¬ limit ≤ elapsed s) :
    (elapsed (lowPollCycle s)).toNat = (elapsed s).toNat + 1 ∧ (elapsed s).toNat < limit.toNat := by
  rw [BitVec.le_def, Nat.not_le] at h
  have := limit.isLt
  exact ⟨(lowPollCycle_polled hn).elapsed_toNat (by omega), h⟩

/-- With the high time of the selected bit and room for the polls that are left, the high part of a symbol is a run that
ends after FALL (R123, R124). -/
theorem symbolHigh_run {t : CycleWord} (n : Nat) {s : State} (hp : s.pc = .highWait) (hn : NoReset s)
    (ht : highTime s = t) (hfuel : t.toNat - (elapsed s).toNat < n) :
    ∃ k, run k s = .next (symbolHigh t n s) ∧
      ((symbolHigh t n s).pc = .lowWait ∨ (symbolHigh t n s).pc = .post) ∧ NoReset (symbolHigh t n s) := by
  induction n generalizing s with
  | zero => exact absurd hfuel (Nat.not_lt_zero _)
  | succ n ih =>
    rw [symbolHigh, if_neg (by simp [hn.1])]
    subst ht
    by_cases ho : highWaitOver (highTime s) s = true
    · rw [if_pos ho]
      exact ⟨1, run_succ 0 (step_fall hp hn.1 ho), fallCycle_pc s, hn.next (fallCycle_law s)⟩
    · rw [if_neg ho, highPollCycle_eq]
      have hpoll := lowPollCycle_polled hn
      obtain ⟨he, hlt⟩ := elapsed_lowPollCycle_toNat hn (mt decide_eq_true ho)
      obtain ⟨k, hk, hend⟩ := ih (hpoll.pc.trans hp) hpoll.noReset hpoll.highTime (by omega)
      exact ⟨k + 1, (run_succ k (step_highPoll hp hn.1 (Bool.not_eq_true _ ▸ ho))).trans hk, hend⟩

/-- A symbol ends in POST or at the next rising edge (R85). -/
def SymbolEnd (t : State) : Prop := t.pc = .post ∨ (t.pc = .lowWait ∧ t.regs.ttot ≤ elapsed t)

theorem SymbolEnd.of_over {s : State} (hp : s.pc = .lowWait ∨ s.pc = .post)
    (hover : s.pc = .lowWait → s.regs.ttot ≤ elapsed s) : SymbolEnd s :=
  hp.elim (fun h => .inr ⟨h, hover h⟩) .inl

/-- With room for the polls that are left, the low part of a symbol is a run that ends the symbol (R121). -/
theorem symbolLow_run (n : Nat) {s : State} (hp : s.pc = .lowWait ∨ s.pc = .post) (hn : NoReset s)
    (hfuel : s.regs.ttot.toNat - (elapsed s).toNat ≤ n) :
    ∃ k, run k s = .next (symbolLow n s) ∧ SymbolEnd (symbolLow n s) := by
  induction n generalizing s with
  | zero =>
    have hover : s.regs.ttot ≤ elapsed s := BitVec.le_def.2 (by omega)
    exact ⟨0, rfl, .of_over hp fun _ => hover⟩
  | succ n ih =>
    rw [symbolLow]
    by_cases hg : s.inp.rst = false ∧ s.pc = .lowWait ∧ lowWaitOver s = false
    · rw [if_pos hg]
      obtain ⟨hr, hlow, ho⟩ := hg
      have hpoll := lowPollCycle_polled hn
      obtain ⟨he, hlt⟩ := elapsed_lowPollCycle_toNat hn (of_decide_eq_false ho)
      have httot : (lowPollCycle s).regs.ttot = s.regs.ttot := by rw [hpoll.regs]
      obtain ⟨k, hk, hend⟩ := ih (.inl (hpoll.pc.trans hlow)) hpoll.noReset (by rw [httot, he]; omega)
      exact ⟨k + 1, (run_succ k (step_lowPoll hlow hr ho)).trans hk, hend⟩
    · rw [if_neg hg]
      exact ⟨0, rfl, .of_over hp fun hlow => by simpa [hn.1, hlow, lowWaitOver] using hg⟩

/-- From the step whose poll ends the low wait, the symbol of the selected bit's high time is a run. No wait has more
than `2^CW` polls (R129), so the bound on them is never met. -/
theorem symbol_run {s : State} (hp : s.pc = .lowWait) (hover : s.regs.ttot ≤ elapsed s) (hn : NoReset s) :
    ∃ n, run n s = .next (symbol (highTime s) s) ∧ SymbolEnd (symbol (highTime s) s) := by
  have hrise : step s = .next (riseCycle s) := step_rise hp hn.1 (decide_eq_true hover)
  have ht := (highTime s).isLt
  obtain ⟨j, hj, hpc, hn'⟩ :=
    symbolHigh_run (t := highTime s) (2 ^ 32) (riseCycle_pc s) (hn.next (riseCycle_law s)) rfl (by omega)
  have httot := (symbolHigh (highTime s) (2 ^ 32) (riseCycle s)).regs.ttot.isLt
  obtain ⟨k, hk, hend⟩ := symbolLow_run (2 ^ 32) hpc hn' (by omega)
  rw [symbol, if_neg (by simp [hn.1])]
  exact ⟨j + 1 + k, (run_add (j + 1) k ((run_succ j hrise).trans hj)).trans hk, hend⟩

/-- Settles O45: the high time of SYM0 or SYM1 is that of the selected bit. -/
theorem symbolIsItsSteps : Obligations.SymbolIsItsSteps := by
  unfold Obligations.SymbolIsItsSteps
  intro s hp hover hn
  obtain ⟨n, hrun, hend⟩ := symbol_run hp hover hn
  refine ⟨fun hbit => ?_, fun hbit => ?_⟩ <;> rw [highTime, hbit] at hrun hend <;> exact ⟨n, _, rfl, hrun, hend⟩

end Sys2Proof.Machine
end

section
/-! The engine's step out of reset, one equation a phase (R89). -/

namespace Sys2Proof.Machine

theorem engineStep_pre {s : State} (hr : s.inp.rst = false) (hp : s.pc = .pre) : engineStep s = preCycle s := by
  simp [engineStep, hr, hp]

theorem engineStep_lowWait {s : State} (hr : s.inp.rst = false) (hp : s.pc = .lowWait) :
    engineStep s = if lowWaitOver s then riseCycle s else lowPollCycle s := by
  simp [engineStep, hr, hp]

theorem engineStep_highWait {s : State} (hr : s.inp.rst = false) (hp : s.pc = .highWait) :
    engineStep s = if highWaitOver (highTime s) s then fallCycle s else lowPollCycle s := by
  simp [engineStep, hr, hp, highPollCycle_eq]

theorem engineStep_post {s : State} (hr : s.inp.rst = false) (hp : s.pc = .post) : engineStep s = postCycle s := by
  simp [engineStep, hr, hp]

/-- Without a command strobe an idle engine makes the idle step (R101). -/
theorem engineStep_nop {s : State} (hr : s.inp.rst = false) (hp : s.pc = .idle) (hstart : s.inp.start = false) :
    engineStep s = nopCycle s := by
  simp [engineStep, hr, hp, hstart]

/-- At a `pc` that names no phase the step is RESET (R93). -/
theorem engineStep_illegal {s : State} (hp : ¬ Phase.legal s.pc) : engineStep s = resetCycle s := by
  unfold engineStep
  cases hpc : s.pc <;> simp [Phase.legal, hpc] at hp ⊢

/-- A busy engine is in one of the four other phases, or `pc` names none. -/
theorem busy_phases {s : State} (h : s.pc ≠ .idle) :
    s.pc = .pre ∨ s.pc = .lowWait ∨ s.pc = .highWait ∨ s.pc = .post ∨ ¬ Phase.legal s.pc := by
  unfold Phase.legal
  cases hp : s.pc <;> simp [hp] at h ⊢

end Sys2Proof.Machine
end

section
/-! The command's own micro-operations: the idle step, ACCEPT, PRE and POST with their events and registers (R100 to
R103, R108), and the transmission without a payload. -/

namespace Sys2Proof.Machine

/-- ACCEPT's one event (R140). -/
theorem acceptCycle_appends (s : State) : Appends s (acceptCycle s) [.irqLock] := rfl

/-- POST's two events, the watchdog reset inside the interrupts-disabled scope (R108). -/
theorem postCycle_appends (s : State) : Appends s (postCycle s) [.wdtReset, .irqUnlock] := by
  simp [Appends, postCycle, postAct]

/-- The epilogue's step (R108). -/
theorem step_post {s : State} (hp : s.pc = .post) (hr : s.inp.rst = false) : step s = .next (postCycle s) := by
  rw [step_busy (by simp [hp]), engineStep_post hr hp]

/-- Settles O8: the cycle of ACCEPT, which an idle engine runs on a command strobe. -/
theorem acceptLatchesCommand : Obligations.AcceptLatchesCommand := by
  unfold Obligations.AcceptLatchesCommand
  intro s
  exact ⟨fun hp hr hstart => step_accept hp hstart hr, acceptCycle s, rfl, rfl, rfl, rfl, acceptCycle_appends s, rfl,
    rfl, rfl, rfl, (acceptCycle_law s).frame rfl⟩

/-- Settles O17: the cycle of POST, which a step in POST runs. -/
theorem epilogueReleases : Obligations.EpilogueReleases := by
  unfold Obligations.EpilogueReleases
  intro s
  exact ⟨fun hp hr => step_post hp hr, postCycle s, rfl, rfl, rfl, postCycle_appends s, rfl, rfl, rfl, rfl, rfl,
    (postCycle_law s).frame rfl⟩

/-- NOP as a command word is the idle step with START = 0 on the ports (R87). -/
theorem exec_nopCmd_idle {s : State} (hp : s.pc = .idle) (hr : s.inp.rst = false) :
    exec .nopCmd s = .next (nopCycle (driveNoCommand s)) :=
  congrArg Host.Outcome.next (engineStep_nop (s := driveNoCommand s) hr hp rfl)

/-- Settles O10: both forms of NOP are the cycle with no action. -/
theorem idleStepChangesNothing : Obligations.IdleStepChangesNothing := by
  unfold Obligations.IdleStepChangesNothing
  refine ⟨fun s => ?_, fun s hp hr => ?_⟩
  · exact ⟨nopCycle s, rfl, rfl, rfl, rfl, .nil rfl, rfl, rfl, rfl, rfl, (nopCycle_law s).frame rfl⟩
  · exact ⟨nopCycle (driveNoCommand s), exec_nopCmd_idle hp hr, rfl, hp, rfl, .nil rfl, rfl, rfl, rfl, rfl,
      (nopCycle_law _).frame rfl⟩

/-- PRE of an empty transmission as a cycle (R103). -/
theorem preCycle_empty {s : State} (h : s.regs.length = 0) :
    preCycle s = cycle (fun u => { preInit (wdtReset u) with pc := .post }) s := by
  unfold preCycle cycle
  rw [preAct_empty (s := beginCycle s) h]

/-- PRE of a transmission with a payload as a cycle (R102). -/
theorem preCycle_payload {s : State} (h : s.regs.length ≠ 0) :
    preCycle s = cycle (fun u => preFetch (preInit (wdtReset u))) s := by
  unfold preCycle cycle
  rw [preAct_payload (s := beginCycle s) h]

/-- Without a payload PRE goes to POST (R103). -/
theorem preCycle_empty_pc {s : State} (h : s.regs.length = 0) : (preCycle s).pc = .post := by
  rw [preCycle_empty h]
  rfl

/-- Without a payload PRE's one event is the watchdog reset (R103). -/
theorem preCycle_empty_appends {s : State} (h : s.regs.length = 0) : Appends s (preCycle s) [.wdtReset] := by
  rw [preCycle_empty h]
  rfl

/-- With one it fetches byte 0 after the watchdog reset (R102). -/
theorem preCycle_payload_appends {s : State} (h : s.regs.length ≠ 0) :
    Appends s (preCycle s) [.wdtReset, .memRead s.regs.base (s.mem.read s.regs.base.toNat)] := by
  rw [preCycle_payload h]
  simp [Appends, preFetch, preInit, memValue]

/-- PRE restarts the hidden countdown, and the rest of its frame is every cycle's (R102). -/
theorem preCycle_frame (s : State) : CycleFrame s (preCycle s) :=
  (preCycle_law s).frame (cycle_wdtElapsed fun h => by simp [preAct_wdtReset] at h)

/-- Settles O11: the cycle of PRE, in the arm that LENGTH selects. -/
theorem prologueFetchesFirstByte : Obligations.PrologueFetchesFirstByte := by
  unfold Obligations.PrologueFetchesFirstByte
  intro s v
  refine ⟨fun hp hr => step_pre hp hr, preCycle s, rfl, ?_⟩
  have hframe := preCycle_frame s
  by_cases h : s.regs.length = 0
  · have hev := preCycle_empty_appends h
    rw [if_pos h, preCycle_empty h] at *
    exact ⟨⟨rfl, rfl, hev, rfl⟩, rfl, rfl, rfl, rfl, hframe⟩
  · have hev := preCycle_payload_appends h
    rw [if_neg h, preCycle_payload h] at *
    exact ⟨⟨rfl, rfl, hev, rfl⟩, rfl, rfl, rfl, rfl, hframe⟩

/-- ACCEPT and PRE of a transmission without a payload append its first two events (R103). -/
theorem launch_empty_history {s : State} (h : s.inp.lengthIn = 0) :
    (preCycle (acceptCycle s)).history =
      s.history ++ [{ step := s.stepNo, kind := .irqLock }, { step := s.stepNo + 1, kind := .wdtReset }] := by
  rw [preCycle_empty_appends (s := acceptCycle s) h, acceptCycle_appends, (acceptCycle_law s).stepNo]
  simp

/-- Settles O12: ACCEPT, PRE without a payload and POST. -/
theorem emptyTransmissionTakesThreeSteps : Obligations.EmptyTransmissionTakesThreeSteps := by
  unfold Obligations.EmptyTransmissionTakesThreeSteps
  intro s hp hstart hlen hn
  have haccept := acceptCycle_law s
  have hpre := preCycle_law (acceptCycle s)
  have hpost : (preCycle (acceptCycle s)).pc = .post := preCycle_empty_pc (s := acceptCycle s) hlen
  have hn2 : NoReset (preCycle (acceptCycle s)) := (hn.next haccept).next hpre
  have hrun2 := run_two_launch hp hstart hn
  refine ⟨⟨acceptCycle s, run_succ 0 (step_accept hp hstart hn.1), by simp [acceptCycle_pc]⟩,
    ⟨preCycle (acceptCycle s), hrun2, by simp [hpost]⟩,
    postCycle (preCycle (acceptCycle s)), ?run, rfl, rfl, ?pin, fun a => ?mem, ?history⟩
  case run => exact (run_add 2 1 hrun2).trans (run_succ 0 (step_post hpost hn2.1))
  case pin => exact preCycle_pin (acceptCycle s)
  case mem => rw [(postCycle_law _).mem, hpre.mem, haccept.mem]
  case history =>
    rw [postCycle_appends, hpre.stepNo, haccept.stepNo, launch_empty_history hlen]
    simp

end Sys2Proof.Machine
end

section
/-! Outside a command's own step: while the engine is busy the command ports are not read (R109), and the host's calls
are refused, the framebuffer's also once the driver is dead (R106, R166). -/

namespace Sys2Proof.Machine

/-! ### The command ports of a busy engine (R109) -/

/-- An action that neither reads nor writes the input ports. -/
def IgnoresInputs (act : State → State) : Prop :=
  ∀ (s : State) (i : Inputs), act { s with inp := i } = { act s with inp := i }

/-- A choice between two such actions is one, where the ports have no part in the choice. -/
theorem IgnoresInputs.ite {c : State → Prop} [DecidablePred c] {f g : State → State}
    (hc : ∀ (s : State) (i : Inputs), c { s with inp := i } ↔ c s) (hf : IgnoresInputs f) (hg : IgnoresInputs g) :
    IgnoresInputs (fun s => if c s then f s else g s) := fun s i => by
  by_cases h : c s
  · simp only [hc, if_pos h]; exact hf s i
  · simp only [hc, if_neg h]; exact hg s i

theorem engineReset_ignoresInputs : IgnoresInputs engineReset := fun _ _ => rfl

theorem preAct_ignoresInputs : IgnoresInputs preAct :=
  .ite (c := fun s => s.regs.length = 0) (fun _ _ => .rfl) (fun _ _ => rfl) (fun _ _ => rfl)

theorem waitTick_ignoresInputs : IgnoresInputs waitTick :=
  .ite (c := fun s => s.regs.w.toNat + 1 > s.params.wdtThresh) (fun _ _ => .rfl) (fun _ _ => rfl) (fun _ _ => rfl)

theorem lowPollAct_ignoresInputs : IgnoresInputs lowPollAct := fun s => waitTick_ignoresInputs (cycleCount s)

theorem riseAct_ignoresInputs : IgnoresInputs riseAct := fun _ _ => rfl

theorem advance_ignoresInputs : IgnoresInputs advance :=
  .ite (c := fun s => s.regs.bitMask >>> 1 ≠ 0) (fun _ _ => .rfl) (fun _ _ => rfl)
    (.ite (c := fun s => onLastByte s = true) (fun _ _ => .rfl) (fun _ _ => rfl) (fun _ _ => rfl))

theorem fallAct_ignoresInputs : IgnoresInputs fallAct := fun s => advance_ignoresInputs (fallEdge s)

theorem postAct_ignoresInputs : IgnoresInputs postAct := fun _ _ => rfl

/-- Other values on the four command ports alone. -/
structure SameButCommand (i j : Inputs) : Prop where
  rst : j.rst = i.rst
  cpuFreq : j.cpuFreq = i.cpuFreq
  irqReq : j.irqReq = i.irqReq

/-- The same state but for the input ports. -/
def SameButInputs (u t : State) : Prop := { t with inp := u.inp } = u

theorem SameButInputs.ite {c : Prop} [Decidable c] {s s' t t' : State} (h : SameButInputs s s')
    (k : SameButInputs t t') : SameButInputs (if c then s else t) (if c then s' else t') := by
  split
  · exact h
  · exact k

/-- The end of a cycle reads the interrupt requests of the ports, to move the pending set on, and no other port. -/
theorem endCycle_sameButInputs (masked : Bool) {s : State} {i : Inputs} (hi : i.irqReq = s.inp.irqReq) :
    SameButInputs (endCycle masked s) (endCycle masked { s with inp := i }) := by
  have hpending : pendingAfter masked { s with inp := i } = pendingAfter masked s := by
    unfold pendingAfter
    rw [hi]
  unfold SameButInputs endCycle
  rw [hpending]

/-- An action that ignores the ports leaves them as they are. -/
theorem IgnoresInputs.inp {act : State → State} (h : IgnoresInputs act) (s : State) : (act s).inp = s.inp := by
  show (act { s with inp := s.inp }).inp = s.inp
  rw [h]

/-- The cycle of an action that ignores the ports leaves the same state for other command ports. -/
theorem IgnoresInputs.cycle {act : State → State} (h : IgnoresInputs act) {s : State} {i : Inputs}
    (hi : SameButCommand s.inp i) : SameButInputs (Machine.cycle act s) (Machine.cycle act { s with inp := i }) := by
  have hact : act (beginCycle { s with inp := i }) = { act (beginCycle s) with inp := i } := h (beginCycle s) i
  unfold Machine.cycle
  rw [hact]
  exact endCycle_sameButInputs s.irqDisable (hi.irqReq.trans (congrArg Inputs.irqReq (h.inp (beginCycle s)).symm))

/-- A busy step reads no command port: with another command on them it leaves the same state, but for the ports. -/
theorem engineStep_busy_command {s : State} (hp : s.pc ≠ .idle) {i : Inputs} (hi : SameButCommand s.inp i) :
    SameButInputs (engineStep s) (engineStep { s with inp := i }) := by
  have hreset : SameButInputs (resetCycle s) (resetCycle { s with inp := i }) := engineReset_ignoresInputs.cycle hi
  cases hr : s.inp.rst with
  | true => rw [engineStep_rst hr, engineStep_rst (s := { s with inp := i }) (hi.rst.trans hr)]; exact hreset
  | false =>
    have hr' : i.rst = false := hi.rst.trans hr
    rcases busy_phases hp with hp | hp | hp | hp | hp
    · rw [engineStep_pre hr hp, engineStep_pre (s := { s with inp := i }) hr' hp]
      exact preAct_ignoresInputs.cycle hi
    · rw [engineStep_lowWait hr hp, engineStep_lowWait (s := { s with inp := i }) hr' hp]
      exact .ite (riseAct_ignoresInputs.cycle hi) (lowPollAct_ignoresInputs.cycle hi)
    · rw [engineStep_highWait hr hp, engineStep_highWait (s := { s with inp := i }) hr' hp]
      exact .ite (fallAct_ignoresInputs.cycle hi) (lowPollAct_ignoresInputs.cycle hi)
    · rw [engineStep_post hr hp, engineStep_post (s := { s with inp := i }) hr' hp]
      exact postAct_ignoresInputs.cycle hi
    · rw [engineStep_illegal hp, engineStep_illegal (s := { s with inp := i }) hp]
      exact hreset

/-- Other command ports leave the next step its strobe, RST, CPU_FREQ and interrupt requests. -/
theorem nextInputs_command {s : State} {i : Inputs} (hi : SameButCommand s.inp i) :
    (nextInputs { s with inp := i }).start = (nextInputs s).start ∧
      SameButCommand (nextInputs s) (nextInputs { s with inp := i }) := by
  unfold nextInputs
  cases s.upcoming with
  | nil => exact ⟨rfl, rfl, hi.cpuFreq, rfl⟩
  | cons j rest => exact ⟨rfl, rfl, rfl, rfl⟩

/-- A command word in a step is the engine's step with other values on the command ports. -/
theorem exec_command {i : Instr} (hi : (∃ pm b l, i = .transmit pm b l) ∨ i = .nopCmd) (s : State) :
    ∃ j, SameButCommand s.inp j ∧ exec i s = .next (engineStep { s with inp := j }) := by
  rcases hi with ⟨pm, b, l, rfl⟩ | rfl
  · exact ⟨(driveCommand true pm b l s).inp, ⟨rfl, rfl, rfl⟩, rfl⟩
  · exact ⟨(driveNoCommand s).inp, ⟨rfl, rfl, rfl⟩, rfl⟩

/-- Settles O21: the word stands on ports that a busy step does not read. -/
theorem commandIgnoredWhileBusy : Obligations.CommandIgnoredWhileBusy := by
  unfold Obligations.CommandIgnoredWhileBusy
  intro s i hp hi
  obtain ⟨j, hj, hexec⟩ := exec_command hi s
  refine ⟨_, engineStep s, hexec, exec_nextMicroOp s, engineStep_busy_command hp hj, ?_⟩
  rw [(engineStep_law { s with inp := j }).inp, (engineStep_law s).inp]
  obtain ⟨hstart, hports⟩ := nextInputs_command hj
  exact ⟨hstart, hports.rst, hports.cpuFreq, hports.irqReq⟩

/-! ### Refusals (R106, R166) -/

/-- While the engine is busy a call that waits for it is refused. -/
theorem whenIdle_busy {s : State} (hp : s.pc ≠ .idle) (act : State → Host.Outcome State Fault Refusal) :
    whenIdle act s = .refused .hostBlocked := by
  simp [whenIdle, busy, hp]

theorem whenAlive_busy {s : State} (hp : s.pc ≠ .idle) (act : State → State) :
    whenAlive act s = .refused .hostBlocked := by
  simp [whenAlive, busy, hp]

/-- After an allocation failure a framebuffer call is refused. -/
theorem whenAlive_dead {s : State} (hp : s.pc = .idle) (hd : s.fb.dead = true) (act : State → State) :
    whenAlive act s = .refused .driverDead := by
  simp [whenAlive, busy, hp, hd]

/-- A framebuffer call or a flush waits for the engine and needs a living driver. -/
theorem exec_usesFramebuffer {i : Instr} (hi : UsesFramebuffer i) (s : State) :
    ∃ act, exec i s = whenAlive act s := by
  cases i with
  | fbInitialize | overwriteLed | overwriteRange | mergeLed | mergeRange | readLed | shiftRight | shiftLeft | flush =>
    exact ⟨_, rfl⟩
  | _ => exact hi.elim

/-- Every other host call or pseudo-operation waits for the engine. -/
theorem exec_hostOperation {i : Instr} (hi : i.format = .hostcall ∨ i.format = .pseudo) (s : State) :
    UsesFramebuffer i ∨ ∃ act, exec i s = whenIdle act s := by
  cases i with
  | fbInitialize | overwriteLed | overwriteRange | mergeLed | mergeRange | readLed | shiftRight | shiftLeft | flush =>
    exact .inl trivial
  | toWireOrderInPlace bytes => exact .inr ⟨fun t => .next (toWireOrderInPlace bytes t), rfl⟩
  | asWireOrder bytes => exact .inr ⟨fun t => .next (asWireOrder bytes t), rfl⟩
  | writeRgb pm bytes n => exact .inr ⟨fun t => .next (writeRgb pm bytes n t), rfl⟩
  | writeGrb pm bytes n => exact .inr ⟨fun t => .next (writeGrb pm bytes n t), rfl⟩
  | _ => rcases hi with hi | hi <;> cases hi

/-- Settles O40: each operation is behind one of the two guards. -/
theorem hostRefusals : Obligations.HostRefusals := by
  unfold Obligations.HostRefusals
  refine ⟨fun s i hp hi => ?_, fun s i hp hd hi => ?_⟩
  · rcases exec_hostOperation hi s with hfb | ⟨act, hact⟩
    · obtain ⟨act, hact⟩ := exec_usesFramebuffer hfb s
      rw [hact, whenAlive_busy hp]
    · rw [hact, whenIdle_busy hp]
  · obtain ⟨act, hact⟩ := exec_usesFramebuffer hi s
    rw [hact, whenAlive_dead hp hd]

end Sys2Proof.Machine
end

section
/-! A transmission up to its end (R105, R110, R130): what its steps keep, how many bits it has left, and that it ends
whatever the timing (R129). -/

namespace Sys2Proof.Machine

/-! ### What the steps of a transmission keep -/

theorem PhaseInv.legal {s : State} (h : PhaseInv s) : Phase.legal s.pc := by
  unfold PhaseInv at h
  unfold Phase.legal
  cases hp : s.pc <;> simp [hp] at h ⊢

/-- What holds of each busy micro-operation's cycle, under the guard that selects it (R89), holds of the engine's step
out of reset. -/
theorem engineStep_busy_elim {P : State → Prop} {s : State} (hr : s.inp.rst = false) (hl : Phase.legal s.pc)
    (hp : s.pc ≠ .idle) (pre : s.pc = .pre → P (preCycle s))
    (lowPoll : s.pc = .lowWait → ¬ s.regs.ttot ≤ elapsed s → P (lowPollCycle s))
    (rise : s.pc = .lowWait → s.regs.ttot ≤ elapsed s → P (riseCycle s))
    (highPoll : s.pc = .highWait → ¬ highTime s ≤ elapsed s → P (lowPollCycle s))
    (fall : s.pc = .highWait → highTime s ≤ elapsed s → P (fallCycle s))
    (post : s.pc = .post → P (postCycle s)) : P (engineStep s) := by
  rcases busy_phases hp with hp | hp | hp | hp | hp
  · rw [engineStep_pre hr hp]; exact pre hp
  · rw [engineStep_lowWait hr hp]
    split
    · next ho => exact rise hp (of_decide_eq_true ho)
    · next ho => exact lowPoll hp (mt decide_eq_true ho)
  · rw [engineStep_highWait hr hp]
    split
    · next ho => exact fall hp (of_decide_eq_true ho)
    · next ho => exact highPoll hp (mt decide_eq_true ho)
  · rw [engineStep_post hr hp]; exact post hp
  · exact absurd hl hp

/-- The operands and the timing alone, the registers that only ACCEPT writes (R100). -/
def Regs.operands (r : Regs) : Regs := { r with byteIdx := 0, cur := 0, bitMask := 0, startTime := 0, w := 0 }

theorem preCycle_operands (s : State) : (preCycle s).regs.operands = s.regs.operands := by
  by_cases h : s.regs.length = 0
  · rw [preCycle_empty h]; rfl
  · rw [preCycle_payload h]; rfl

theorem lowPollCycle_operands (s : State) : (lowPollCycle s).regs.operands = s.regs.operands := by
  rw [lowPollCycle_regs]; rfl

theorem advance_operands (s : State) : (advance s).regs.operands = s.regs.operands := by
  rcases advance_cases s with ⟨-, h⟩ | ⟨-, -, h⟩ | ⟨-, -, h⟩ <;> rw [h] <;> rfl

theorem fallCycle_operands (s : State) : (fallCycle s).regs.operands = s.regs.operands :=
  advance_operands (fallEdge (beginCycle s))

/-- No busy step out of reset writes an operand. -/
theorem engineStep_operands {s : State} (hr : s.inp.rst = false) (hl : Phase.legal s.pc) (hp : s.pc ≠ .idle) :
    (engineStep s).regs.operands = s.regs.operands := by
  apply engineStep_busy_elim (P := fun t => t.regs.operands = s.regs.operands) hr hl hp
  case pre => intro _; exact preCycle_operands s
  case lowPoll | highPoll => intro _ _; exact lowPollCycle_operands s
  case rise | post => intros; rfl
  case fall => intro _ _; exact fallCycle_operands s

/-- A busy step out of reset goes to IDLE only from POST, where the pins are low after a payload (R130). -/
theorem engineStep_idle_pins {s : State} (hr : s.inp.rst = false) (h : PhaseInv s) (hp : s.pc ≠ .idle) :
    (engineStep s).pc = .idle → s.regs.length = 0 ∨ (engineStep s).pin &&& s.regs.pinMask = 0 := by
  apply engineStep_busy_elim
    (P := fun t => t.pc = .idle → s.regs.length = 0 ∨ t.pin &&& s.regs.pinMask = 0) hr h.legal hp
  case pre => intro _ ht; rcases preCycle_pc s with hpc | hpc <;> rw [hpc] at ht <;> cases ht
  case lowPoll | highPoll => intro hpc _ ht; rw [lowPollCycle_pc, hpc] at ht; cases ht
  case rise => intro _ _ ht; cases ht
  case fall => intro _ _ ht; rcases fallCycle_pc s with hpc | hpc <;> rw [hpc] at ht <;> cases ht
  case post => intro hpc _; exact ((phaseInv_post hpc).1 h).2

/-- `u` is a state of the transmission that `s` is in, or its end. -/
structure Sending (s u : State) : Prop where
  phase : PhaseInv u
  noReset : NoReset u
  operands : u.regs.operands = s.regs.operands
  mem : u.mem = s.mem
  history : ∃ l, u.history = s.history ++ l
  ended : u.pc = .idle → s.regs.length = 0 ∨ u.pin &&& s.regs.pinMask = 0

theorem Sending.refl {s : State} (h : PhaseInv s) (hn : NoReset s) (hp : s.pc ≠ .idle) : Sending s s :=
  ⟨h, hn, rfl, rfl, ⟨[], by simp⟩, fun hidle => absurd hidle hp⟩

theorem Sending.length {s u : State} (h : Sending s u) : u.regs.length = s.regs.length := by
  simpa [Regs.operands] using congrArg Regs.length h.operands

theorem Sending.pinMask {s u : State} (h : Sending s u) : u.regs.pinMask = s.regs.pinMask := by
  simpa [Regs.operands] using congrArg Regs.pinMask h.operands

theorem Sending.step {s u : State} (h : Sending s u) (hp : u.pc ≠ .idle) : Sending s (engineStep u) := by
  have hlaw := engineStep_law u
  obtain ⟨l, hl⟩ := h.history
  obtain ⟨m, hm⟩ := hlaw.history
  refine ⟨engineStep_phaseInv h.phase, h.noReset.engineStep,
    (engineStep_operands h.noReset.1 h.phase.legal hp).trans h.operands, hlaw.mem.trans h.mem,
    ⟨_, by rw [hm, hl, List.append_assoc]⟩, ?_⟩
  rw [← h.length, ← h.pinMask]
  exact engineStep_idle_pins h.noReset.1 h.phase hp

/-- At its end the scope is released (R25). -/
theorem Sending.irqDisable {s t : State} (h : Sending s t) (hp : t.pc = .idle) : t.irqDisable = false :=
  (phaseInv_idle hp).1 h.phase

/-- In a wait the position and CUR are those of R38 (a). -/
theorem PhaseInv.inWait {s : State} (h : PhaseInv s) (hp : Waiting s) : InWait s := by
  rcases hp with hp | hp
  · exact ((phaseInv_lowWait hp).1 h).2.1
  · exact ((phaseInv_highWait hp).1 h).2.1

/-! ### The bits left -/

/-- The bits from the selected one to the last of the payload, both counted. -/
def bitsLeft (s : State) : Nat :=
  8 * (s.regs.length.toNat - s.regs.byteIdx.toNat - 1) + s.regs.bitMask.toNat.log2 + 1

/-- The next lower bit has one bit less below it. -/
theorem OneHotByte.log2_shiftRight {b : Byte} (h : OneHotByte b) (hb : b >>> 1 ≠ 0) :
    (b >>> 1).toNat.log2 + 1 = b.toNat.log2 := by
  rcases h with rfl | rfl | rfl | rfl | rfl | rfl | rfl | rfl
  case inr.inr.inr.inr.inr.inr.inr => exact absurd rfl hb
  all_goals decide

/-- Bit 0 is the one below which there is no other. -/
theorem OneHotByte.log2_eq_zero_iff {b : Byte} (h : OneHotByte b) : b.toNat.log2 = 0 ↔ b >>> 1 = 0 := by
  rcases h with rfl | rfl | rfl | rfl | rfl | rfl | rfl | rfl <;> decide

theorem OneHotByte.eq_one {b : Byte} (h : OneHotByte b) (hb : b.toNat.log2 = 0) : b = 1 := by
  rcases h with rfl | rfl | rfl | rfl | rfl | rfl | rfl | rfl <;> revert hb <;> decide

/-- ADVANCE goes to the next bit, or to POST after the last (R126). -/
theorem advance_bitsLeft {s : State} (h : InWait s) :
    ((advance s).pc = .lowWait ∧ bitsLeft s = bitsLeft (advance s) + 1) ∨
      ((advance s).pc = .post ∧ bitsLeft s = 1) := by
  obtain ⟨hbit, hidx, -, -⟩ := h
  rcases advance_cases s with ⟨hmore, h⟩ | ⟨hzero, hlast, h⟩ | ⟨hzero, hlast, h⟩ <;> rw [h]
  · refine .inl ⟨rfl, ?_⟩
    have hlog := hbit.log2_shiftRight hmore
    simp only [bitsLeft, advanceBit]
    omega
  · refine .inr ⟨rfl, ?_⟩
    have hlog := hbit.log2_eq_zero_iff.2 hzero
    have hlen : s.regs.byteIdx.toNat + 1 = s.regs.length.toNat := of_decide_eq_true hlast
    simp only [bitsLeft]
    omega
  · refine .inl ⟨rfl, ?_⟩
    have hlog := hbit.log2_eq_zero_iff.2 hzero
    have hlen : s.regs.byteIdx.toNat + 1 ≠ s.regs.length.toNat := of_decide_eq_false hlast
    have hnext : (s.regs.byteIdx + 1).toNat = s.regs.byteIdx.toNat + 1 := by
      have := s.regs.length.isLt
      rw [BitVec.toNat_add]
      exact Nat.mod_eq_of_lt (by simp; omega)
    have htop : (0x80 : Byte).toNat.log2 = 7 := by decide
    simp only [bitsLeft, advanceByte, hnext, htop]
    omega

theorem fallCycle_bitsLeft {s : State} (h : InWait s) :
    ((fallCycle s).pc = .lowWait ∧ bitsLeft s = bitsLeft (fallCycle s) + 1) ∨
      ((fallCycle s).pc = .post ∧ bitsLeft s = 1) :=
  advance_bitsLeft (s := fallEdge (beginCycle s)) (h.congr rfl rfl (Nat.zero_le _))

theorem lowPollCycle_bitsLeft (s : State) : bitsLeft (lowPollCycle s) = bitsLeft s := by
  unfold bitsLeft; rw [lowPollCycle_regs]

/-- After PRE every bit of the payload is left (R102). -/
theorem preCycle_bitsLeft {s : State} (h : s.regs.length ≠ 0) :
    (preCycle s).pc = .lowWait ∧ bitsLeft (preCycle s) = 8 * s.regs.length.toNat := by
  have hpos : 0 < s.regs.length.toNat := Nat.pos_of_ne_zero fun h0 => h (BitVec.eq_of_toNat_eq h0)
  have htop : (0x80 : Byte).toNat.log2 = 7 := by decide
  rw [preCycle_payload h]
  refine ⟨rfl, ?_⟩
  show 8 * (s.regs.length.toNat - 0 - 1) + (0x80 : Byte).toNat.log2 + 1 = _
  omega

/-! ### The end of every transmission (R129) -/

/-- A run of a busy engine that keeps `P` and takes something off `work` in every step reaches IDLE. -/
theorem run_to_idle {α : Type} [Preorder α] [WellFoundedLT α] {P : State → Prop} {work : State → α}
    (hstep : ∀ u, P u → u.pc ≠ .idle → P (engineStep u) ∧ work (engineStep u) < work u) {s : State}
    (h : P s) : ∃ n t, run n s = .next t ∧ t.pc = .idle ∧ P t := by
  induction hw : work s using WellFoundedLT.induction generalizing s with
  | ind w ih =>
    subst hw
    by_cases hp : s.pc = .idle
    · exact ⟨0, s, rfl, hp, h⟩
    · obtain ⟨hkeep, hless⟩ := hstep s h hp
      obtain ⟨n, t, hrun, hend⟩ := ih _ hless hkeep rfl
      exact ⟨n + 1, t, (run_succ n (step_busy hp)).trans hrun, hend⟩

/-- The edges of the pins and the steps of PRE and POST still to come, or more. -/
def edgesLeft (s : State) : Nat :=
  match s.pc with
  | .pre => 16 * s.regs.length.toNat + 2
  | .lowWait => 2 * bitsLeft s + 1
  | .highWait => 2 * bitsLeft s
  | .post => 1
  | _ => 0

/-- The polls left in the current wait. -/
def pollsLeft (s : State) : Nat :=
  match s.pc with
  | .lowWait => s.regs.ttot.toNat - (elapsed s).toNat
  | .highWait => (highTime s).toNat - (elapsed s).toNat
  | _ => 0

/-- Edges before polls: every wait ends (R129). -/
def workLeft (s : State) : ℕ ×ₗ ℕ := toLex (edgesLeft s, pollsLeft s)

theorem workLeft_lt_of_edges {s t : State} (h : edgesLeft t < edgesLeft s) : workLeft t < workLeft s :=
  Prod.Lex.toLex_lt_toLex.2 (.inl h)

theorem workLeft_lt_of_polls {s t : State} (h : edgesLeft t = edgesLeft s) (k : pollsLeft t < pollsLeft s) :
    workLeft t < workLeft s :=
  Prod.Lex.toLex_lt_toLex.2 (.inr ⟨h, k⟩)

/-- A poll of a wait that is not over takes a poll off. -/
theorem lowPollCycle_workLeft {s : State} (hn : NoReset s)
    (h : s.pc = .lowWait ∧ ¬ s.regs.ttot ≤ elapsed s ∨ s.pc = .highWait ∧ ¬ highTime s ≤ elapsed s) :
    workLeft (lowPollCycle s) < workLeft s := by
  have hpoll := lowPollCycle_polled hn
  have hpc := lowPollCycle_pc s
  have hbits := lowPollCycle_bitsLeft s
  have httot : (lowPollCycle s).regs.ttot = s.regs.ttot := by rw [lowPollCycle_regs]
  rcases h with ⟨hp, hover⟩ | ⟨hp, hover⟩ <;> obtain ⟨he, hlt⟩ := elapsed_lowPollCycle_toNat hn hover
  · exact workLeft_lt_of_polls (by simp [edgesLeft, hpc, hp, hbits])
      (by simp only [pollsLeft, hpc, hp, httot, he]; omega)
  · exact workLeft_lt_of_polls (by simp [edgesLeft, hpc, hp, hbits])
      (by simp only [pollsLeft, hpc, hp, hpoll.highTime, he]; omega)

/-- Every busy step out of reset takes an edge or a poll off. -/
theorem engineStep_workLeft {s : State} (hn : NoReset s) (h : PhaseInv s) (hp : s.pc ≠ .idle) :
    workLeft (engineStep s) < workLeft s := by
  apply engineStep_busy_elim (P := fun t => workLeft t < workLeft s) hn.1 h.legal hp
  case pre =>
    intro hpc
    apply workLeft_lt_of_edges
    by_cases hlen : s.regs.length = 0
    · simp [edgesLeft, hpc, preCycle_empty_pc hlen]
    · obtain ⟨hpc', hbits⟩ := preCycle_bitsLeft hlen
      simp only [edgesLeft, hpc, hpc', hbits]
      omega
  case lowPoll => intro hpc hover; exact lowPollCycle_workLeft hn (.inl ⟨hpc, hover⟩)
  case rise =>
    intro hpc _
    apply workLeft_lt_of_edges
    have hbits : bitsLeft (riseCycle s) = bitsLeft s := rfl
    simp [edgesLeft, hpc, riseCycle_pc, hbits]
  case highPoll => intro hpc hover; exact lowPollCycle_workLeft hn (.inr ⟨hpc, hover⟩)
  case fall =>
    intro hpc _
    apply workLeft_lt_of_edges
    rcases fallCycle_bitsLeft (h.inWait (.inr hpc)) with ⟨hpc', hbits⟩ | ⟨hpc', hbits⟩ <;>
      simp only [edgesLeft, hpc, hpc', hbits] <;> omega
  case post =>
    intro hpc
    apply workLeft_lt_of_edges
    simp [edgesLeft, hpc, postCycle_pc]

/-- Settles O50: the steps of a transmission keep it and take edges and polls off, of which there are finitely many. -/
theorem everyTransmissionEnds : Obligations.EveryTransmissionEnds := by
  unfold Obligations.EveryTransmissionEnds
  intro s hinv hn hp
  have hstart : Sending s s := .refl ((machineInv_iff s).1 hinv).1 hn hp
  obtain ⟨n, t, hrun, hidle, hend⟩ := run_to_idle (P := Sending s) (work := workLeft)
    (fun u hu hpu => ⟨hu.step hpu, engineStep_workLeft hu.noReset hu.phase hpu⟩) hstart
  exact ⟨n, t, hrun, hidle, hend.irqDisable hidle, hend.history, hend.ended hidle⟩

end Sys2Proof.Machine
end

section
/-! The duration of a transmission with well-formed timing (R107): the steps left of it, one less after each. -/

namespace Sys2Proof.Machine

/-! ### The steps left -/

/-- The high time of the payload's last bit. -/
def lastHighTime (s : State) : CycleWord :=
  highTimeOf ((s.mem.read (s.regs.base + s.regs.length - 1).toNat).getLsbD 0) s

/-- The cycles from the rising edge of the selected bit to the last falling edge: a bit period for each bit but the
last, and the high time of that. -/
def cyclesToLastFall (s : State) : Nat := (bitsLeft s - 1) * s.regs.ttot.toNat + (lastHighTime s).toNat

/-- The steps left in the waits and in POST. -/
def stepsLeft (s : State) : Nat :=
  match s.pc with
  | .lowWait => s.regs.ttot.toNat - (elapsed s).toNat + cyclesToLastFall s + 2
  | .highWait => cyclesToLastFall s + 2 - (elapsed s).toNat
  | .post => 1
  | _ => 0

theorem stepsLeft_lowWait {s : State} (hp : s.pc = .lowWait) :
    stepsLeft s = s.regs.ttot.toNat - (elapsed s).toNat + cyclesToLastFall s + 2 := by
  simp [stepsLeft, hp]

theorem stepsLeft_highWait {s : State} (hp : s.pc = .highWait) :
    stepsLeft s = cyclesToLastFall s + 2 - (elapsed s).toNat := by
  simp [stepsLeft, hp]

theorem stepsLeft_post {s : State} (hp : s.pc = .post) : stepsLeft s = 1 := by simp [stepsLeft, hp]

theorem stepsLeft_idle {s : State} (hp : s.pc = .idle) : stepsLeft s = 0 := by simp [stepsLeft, hp]

/-- The last bit's high time depends on the operands, the timing and memory alone. -/
theorem lastHighTime_congr {s t : State} (h : t.regs.operands = s.regs.operands) (hm : t.mem = s.mem) :
    lastHighTime t = lastHighTime s := by
  simp only [Regs.operands, Regs.mk.injEq] at h
  simp only [lastHighTime, highTimeOf, h, hm]

/-- The cycles to the last falling edge depend on those and the bits left. -/
theorem cyclesToLastFall_congr {s t : State} (h : t.regs.operands = s.regs.operands) (hm : t.mem = s.mem)
    (hb : bitsLeft t = bitsLeft s) : cyclesToLastFall t = cyclesToLastFall s := by
  have hlast := lastHighTime_congr h hm
  simp only [Regs.operands, Regs.mk.injEq] at h
  simp only [cyclesToLastFall, hb, hlast, h]

theorem WellFormedTiming.congr {r q : Regs} (hw : WellFormedTiming r) (h : q.operands = r.operands) :
    WellFormedTiming q := by
  simp only [Regs.operands, Regs.mk.injEq] at h
  simpa only [WellFormedTiming, h] using hw

theorem lowPollCycle_cyclesToLastFall (s : State) : cyclesToLastFall (lowPollCycle s) = cyclesToLastFall s :=
  cyclesToLastFall_congr (lowPollCycle_operands s) (lowPollCycle_law s).mem (lowPollCycle_bitsLeft s)

/-- One bit later there is one bit period less. -/
theorem fallCycle_cyclesToLastFall {s : State} (hb : bitsLeft s = bitsLeft (fallCycle s) + 1) :
    cyclesToLastFall s = s.regs.ttot.toNat + cyclesToLastFall (fallCycle s) := by
  have hop := fallCycle_operands s
  have hlast := lastHighTime_congr hop (fallCycle_law s).mem
  simp only [Regs.operands, Regs.mk.injEq] at hop
  obtain ⟨b, hb'⟩ : ∃ b, bitsLeft (fallCycle s) = b + 1 := ⟨_, rfl⟩
  simp only [cyclesToLastFall, hb, hlast, hop, hb', Nat.add_sub_cancel, Nat.succ_mul]
  omega

/-- Bit 0 selects the byte's bit 0 (R88). -/
theorem and_one_ne_zero (b : Byte) : decide (b &&& 1 ≠ 0) = b.getLsbD 0 := by
  revert b
  decide

/-- With one bit left that bit is the last (R126). -/
theorem highTime_of_bitsLeft_one {s : State} (h : InWait s) (hb : bitsLeft s = 1) : highTime s = lastHighTime s := by
  obtain ⟨hbit, hidx, hcur, -⟩ := h
  unfold bitsLeft at hb
  have hmask : s.regs.bitMask = 1 := hbit.eq_one (by omega)
  have haddr : s.regs.base + s.regs.length - 1 = s.regs.base + s.regs.byteIdx := by
    have hlen : s.regs.length = s.regs.byteIdx + 1 := by bv_omega
    rw [hlen, ← BitVec.add_assoc, BitVec.add_sub_cancel]
  unfold highTime lastHighTime dataBit
  rw [hmask, haddr, ← hcur, and_one_ne_zero]

/-- With well-formed timing a high time is at least one cycle and ends inside the bit period (R26). -/
theorem highTime_bounds {s : State} (hw : WellFormedTiming s.regs) :
    1 ≤ (highTime s).toNat ∧ (highTime s).toNat < s.regs.ttot.toNat := by
  obtain ⟨h0, h01, h1⟩ := hw
  unfold highTime highTimeOf
  split <;> bv_omega

/-- The falling edge of the selected bit is no later than the last. -/
theorem highTime_le_cyclesToLastFall {s : State} (hw : WellFormedTiming s.regs) (h : InWait s) :
    (highTime s).toNat ≤ cyclesToLastFall s := by
  unfold cyclesToLastFall
  by_cases hb : bitsLeft s = 1
  · rw [highTime_of_bitsLeft_one h hb]
    omega
  · have hmore : 1 ≤ bitsLeft s - 1 := by
      have : 1 ≤ bitsLeft s := Nat.le_add_left 1 _
      omega
    have := (highTime_bounds hw).2
    have := Nat.le_mul_of_pos_left s.regs.ttot.toNat hmore
    omega

/-! ### A transmission on time -/

/-- Past PRE, with well-formed timing, no high wait has lasted longer than its high time. -/
structure InTime (s : State) : Prop where
  afterPre : s.pc ≠ .pre
  timing : WellFormedTiming s.regs
  pulse : s.pc = .highWait → (elapsed s).toNat ≤ (highTime s).toNat

theorem elapsed_riseCycle (s : State) : elapsed (riseCycle s) = 1 := by
  show s.ccount + 1 - s.ccount = 1
  bv_omega

/-- ADVANCE does not sample the clock (R126). -/
theorem advance_startTime (s : State) : (advance s).regs.startTime = s.regs.startTime := by
  rcases advance_cases s with ⟨-, h⟩ | ⟨-, -, h⟩ | ⟨-, -, h⟩ <;> rw [h] <;> rfl

/-- FALL leaves START as it is (R124). -/
theorem elapsed_fallCycle (s : State) : elapsed (fallCycle s) = elapsed s + 1 := by
  have hstart : (fallCycle s).regs.startTime = s.regs.startTime := advance_startTime (fallEdge (beginCycle s))
  unfold elapsed
  rw [hstart, (fallCycle_law s).ccount, BitVec.add_sub_comm]

/-- A poll of a low wait is one step of those left. -/
theorem lowPollCycle_stepsLeft_lowWait {s : State} (hn : NoReset s) (hp : s.pc = .lowWait)
    (hover : ¬ s.regs.ttot ≤ elapsed s) : stepsLeft s = stepsLeft (lowPollCycle s) + 1 := by
  obtain ⟨he, hlt⟩ := elapsed_lowPollCycle_toNat hn hover
  have httot : (lowPollCycle s).regs.ttot = s.regs.ttot := by rw [lowPollCycle_regs]
  rw [stepsLeft_lowWait hp, stepsLeft_lowWait ((lowPollCycle_pc s).trans hp), httot, he,
    lowPollCycle_cyclesToLastFall]
  omega

/-- So is one of a high wait, which the last falling edge is not before. -/
theorem lowPollCycle_stepsLeft_highWait {s : State} (hn : NoReset s) (h : InWait s) (hw : WellFormedTiming s.regs)
    (hp : s.pc = .highWait) (hover : ¬ highTime s ≤ elapsed s) : stepsLeft s = stepsLeft (lowPollCycle s) + 1 := by
  obtain ⟨he, hlt⟩ := elapsed_lowPollCycle_toNat hn hover
  have hle := highTime_le_cyclesToLastFall hw h
  rw [stepsLeft_highWait hp, stepsLeft_highWait ((lowPollCycle_pc s).trans hp), he, lowPollCycle_cyclesToLastFall]
  omega

/-- The rising edge ends the low wait. -/
theorem riseCycle_stepsLeft {s : State} (hp : s.pc = .lowWait) (hover : s.regs.ttot ≤ elapsed s) :
    stepsLeft s = stepsLeft (riseCycle s) + 1 := by
  have hcycles : cyclesToLastFall (riseCycle s) = cyclesToLastFall s := rfl
  have hone : (1 : CycleWord).toNat = 1 := rfl
  have hle := BitVec.le_def.1 hover
  rw [stepsLeft_lowWait hp, stepsLeft_highWait (riseCycle_pc s), hcycles, elapsed_riseCycle, hone]
  omega

/-- The falling edge comes at the high time, and the next low wait ends with the bit period. -/
theorem fallCycle_stepsLeft {s : State} (h : InWait s) (hw : WellFormedTiming s.regs) (hp : s.pc = .highWait)
    (he : (elapsed s).toNat = (highTime s).toNat) : stepsLeft s = stepsLeft (fallCycle s) + 1 := by
  obtain ⟨-, hlt⟩ := highTime_bounds hw
  rcases fallCycle_bitsLeft h with ⟨hp', hb⟩ | ⟨hp', hb⟩
  · have hnext : (elapsed (fallCycle s)).toNat = (elapsed s).toNat + 1 := by
      rw [elapsed_fallCycle]
      bv_omega
    have httot : (fallCycle s).regs.ttot = s.regs.ttot := by
      simpa [Regs.operands] using congrArg Regs.ttot (fallCycle_operands s)
    rw [stepsLeft_highWait hp, stepsLeft_lowWait hp', fallCycle_cyclesToLastFall hb, hnext, httot]
    omega
  · have hlast := highTime_of_bitsLeft_one h hb
    rw [stepsLeft_highWait hp, stepsLeft_post hp', cyclesToLastFall, hb, he, hlast]
    omega

/-- A step of a transmission on time is one of the steps left, and the transmission stays on time. -/
theorem engineStep_inTime {s : State} (hn : NoReset s) (h : PhaseInv s) (ht : InTime s) (hp : s.pc ≠ .idle) :
    InTime (engineStep s) ∧ stepsLeft s = stepsLeft (engineStep s) + 1 := by
  have htiming := ht.timing.congr (engineStep_operands hn.1 h.legal hp)
  revert htiming
  apply engineStep_busy_elim
    (P := fun t => WellFormedTiming t.regs → InTime t ∧ stepsLeft s = stepsLeft t + 1) hn.1 h.legal hp
  case pre => intro hpc; exact absurd hpc ht.afterPre
  case lowPoll =>
    intro hpc hover htiming
    have hpc' := (lowPollCycle_pc s).trans hpc
    exact ⟨⟨by simp [hpc'], htiming, by simp [hpc']⟩, lowPollCycle_stepsLeft_lowWait hn hpc hover⟩
  case rise =>
    intro hpc hover htiming
    have hpulse : (elapsed (riseCycle s)).toNat ≤ (highTime (riseCycle s)).toNat := by
      rw [elapsed_riseCycle]
      exact (highTime_bounds htiming).1
    exact ⟨⟨by simp [riseCycle_pc], htiming, fun _ => hpulse⟩, riseCycle_stepsLeft hpc hover⟩
  case highPoll =>
    intro hpc hover htiming
    have hpc' := (lowPollCycle_pc s).trans hpc
    have hpulse : (elapsed (lowPollCycle s)).toNat ≤ (highTime (lowPollCycle s)).toNat := by
      obtain ⟨he, hlt⟩ := elapsed_lowPollCycle_toNat hn hover
      rw [(lowPollCycle_polled hn).highTime]
      omega
    exact ⟨⟨by simp [hpc'], htiming, fun _ => hpulse⟩,
      lowPollCycle_stepsLeft_highWait hn (h.inWait (.inr hpc)) ht.timing hpc hover⟩
  case fall =>
    intro hpc hover htiming
    have hnext := fallCycle_pc s
    have he := Nat.le_antisymm (ht.pulse hpc) (BitVec.le_def.1 hover)
    refine ⟨⟨?_, htiming, ?_⟩, fallCycle_stepsLeft (h.inWait (.inr hpc)) ht.timing hpc he⟩ <;>
      rcases hnext with hpc' | hpc' <;> simp [hpc']
  case post =>
    intro hpc htiming
    refine ⟨⟨by simp [postCycle_pc], htiming, by simp [postCycle_pc]⟩, ?_⟩
    rw [stepsLeft_post hpc, stepsLeft_idle (postCycle_pc s)]

/-- A run of a busy engine that keeps `P`, each step of which is one of the steps left, is busy until there are none and
idle then. -/
theorem run_stepsLeft {P : State → Prop}
    (hstep : ∀ u, P u → u.pc ≠ .idle → P (engineStep u) ∧ stepsLeft u = stepsLeft (engineStep u) + 1) (n : Nat)
    {s : State} (h : P s) (hn : stepsLeft s = n) :
    (∀ k, k < n → ∃ u, run k s = .next u ∧ u.pc ≠ .idle) ∧ ∃ t, run n s = .next t ∧ t.pc = .idle ∧ P t := by
  induction n generalizing s with
  | zero =>
    refine ⟨fun k hk => absurd hk (Nat.not_lt_zero k), s, rfl, ?_, h⟩
    by_contra hp
    obtain ⟨-, hleft⟩ := hstep s h hp
    omega
  | succ n ih =>
    have hp : s.pc ≠ .idle := fun hp => by rw [stepsLeft_idle hp] at hn; cases hn
    obtain ⟨hkeep, hleft⟩ := hstep s h hp
    have hrun := fun k => run_succ k (step_busy hp)
    obtain ⟨hbusy, t, ht, hend⟩ := ih hkeep (by omega)
    refine ⟨fun k hk => ?_, t, (hrun n).trans ht, hend⟩
    cases k with
    | zero => exact ⟨s, rfl, hp⟩
    | succ k =>
      obtain ⟨u, hu, hpu⟩ := hbusy k (by omega)
      exact ⟨u, (hrun k).trans hu, hpu⟩

/-! ### A launch with a payload (R107) -/

/-- The first low wait begins with what the draw of START leaves on the clock (R102, R133). -/
theorem launch_elapsed {s : State} (h : s.inp.lengthIn ≠ 0) :
    elapsed (preCycle (acceptCycle s)) = s.ccount + 2 - startInitDraw s := by
  rw [preCycle_payload (s := acceptCycle s) h]
  show s.ccount + 1 + 1 - startInitDraw s = s.ccount + 2 - startInitDraw s
  rw [BitVec.add_assoc]
  rfl

/-- After PRE the steps left are the rest of the first bit period, the periods of all bits but the last, and the high
time of the last with its two edges' steps and POST. -/
theorem launch_stepsLeft {s : State} (h : s.inp.lengthIn ≠ 0) :
    stepsLeft (preCycle (acceptCycle s)) =
      (derivedTiming s).ttot.toNat - (s.ccount + 2 - startInitDraw s).toNat +
        ((8 * s.inp.lengthIn.toNat - 1) * (derivedTiming s).ttot.toNat +
          if (s.mem.read (s.inp.baseIn + s.inp.lengthIn - 1).toNat).getLsbD 0 then (derivedTiming s).t1h.toNat
          else (derivedTiming s).t0h.toNat) + 2 := by
  obtain ⟨hpc, hbits⟩ := preCycle_bitsLeft (s := acceptCycle s) h
  have hop := preCycle_operands (acceptCycle s)
  have hlast := lastHighTime_congr hop (preCycle_law (acceptCycle s)).mem
  have httot : (preCycle (acceptCycle s)).regs.ttot = (derivedTiming s).ttot := congrArg Regs.ttot hop
  rw [stepsLeft_lowWait hpc, cyclesToLastFall, hbits, hlast, launch_elapsed h, httot, ← apply_ite BitVec.toNat]
  rfl

/-- After PRE the transmission is on time, where the derived timing is well formed. -/
theorem launch_inTime {s : State} (h : s.inp.lengthIn ≠ 0) (hw : WellFormedTiming (acceptCycle s).regs) :
    InTime (preCycle (acceptCycle s)) := by
  obtain ⟨hpc, -⟩ := preCycle_bitsLeft (s := acceptCycle s) h
  exact ⟨by simp [hpc], hw.congr (preCycle_operands (acceptCycle s)), by simp [hpc]⟩

/-- Settles O49: ACCEPT and PRE are two steps, and every step after them is one of the steps left. -/
theorem transmissionDuration : Obligations.TransmissionDuration := by
  unfold Obligations.TransmissionDuration
  intro s hp hstart hlen hn d h0 h01 h1 len e0 last h n
  have haccepted : Sending (acceptCycle s) (acceptCycle s) :=
    .refl ((phaseInv_pre rfl).2 rfl) (hn.next (acceptCycle_law s)) (by simp [acceptCycle_pc])
  have hlaunched : Sending (acceptCycle s) (preCycle (acceptCycle s)) := by
    rw [← engineStep_pre haccepted.noReset.1 (acceptCycle_pc s)]
    exact haccepted.step (by simp [acceptCycle_pc])
  have hrun2 := run_two_launch hp hstart hn
  obtain ⟨hbusy, t, ht, hidle, hsent, -⟩ := run_stepsLeft
    (P := fun u => Sending (acceptCycle s) u ∧ InTime u)
    (fun u ⟨hu, htime⟩ hpu =>
      let ⟨htime', hleft⟩ := engineStep_inTime hu.noReset hu.phase htime hpu
      ⟨⟨hu.step hpu, htime'⟩, hleft⟩) _ ⟨hlaunched, launch_inTime hlen ⟨h0, h01, h1⟩⟩ rfl
  have hcount : n = 2 + stepsLeft (preCycle (acceptCycle s)) := by
    rw [launch_stepsLeft hlen]
    simp only [n, d, len, e0, last, h]
    omega
  rw [hcount]
  refine ⟨fun k hk0 hk => ?_, t, (run_add 2 _ hrun2).trans ht, hidle, hsent.irqDisable hidle,
    (hsent.ended hidle).resolve_left hlen⟩
  match k with
  | 1 => exact ⟨acceptCycle s, run_succ 0 (step_accept hp hstart hn.1), by simp [acceptCycle_pc]⟩
  | k + 2 =>
    obtain ⟨u, hu, hpu⟩ := hbusy k (by omega)
    exact ⟨u, by rw [Nat.add_comm k 2]; exact (run_add 2 k hrun2).trans hu, hpu⟩

end Sys2Proof.Machine
end

section
/-! The bit sequencer, one micro-operation at a time (R121 to R126): the polls, RISE, FALL and ADVANCE with their
registers, pins, events and frame. -/

namespace Sys2Proof.Machine

/-! ### The polls (R121, R123) -/

/-- LOW_POLL and HIGH_POLL are the same cycle. -/
theorem exec_poll {i : Instr} (hi : i = .lowPoll ∨ i = .highPoll) (s : State) : exec i s = .next (lowPollCycle s) := by
  rcases hi with rfl | rfl
  · rfl
  · exact congrArg Host.Outcome.next (highPollCycle_eq s)

/-- A poll past the threshold clears W and resets the watchdog (R147). -/
theorem lowPollCycle_over {s : State} (h : s.params.wdtThresh < s.regs.w.toNat + 1) :
    (lowPollCycle s).regs.w = 0 ∧ Appends s (lowPollCycle s) [.wdtReset] ∧
      (lowPollCycle s).out = { wdtReset := true, gpio := none, mem := none } := by
  have htick := waitTick_over (s := cycleCount (beginCycle s)) h
  exact ⟨congrArg (fun u => u.regs.w) htick, congrArg State.history htick, congrArg State.out htick⟩

/-- A poll up to the threshold is counted in W and has no event (R147). -/
theorem lowPollCycle_under {s : State} (h : s.regs.w.toNat + 1 ≤ s.params.wdtThresh) :
    (lowPollCycle s).regs.w = s.regs.w + 1 ∧ Appends s (lowPollCycle s) [] ∧
      (lowPollCycle s).out = Outputs.quiet := by
  have htick := waitTick_under (s := cycleCount (beginCycle s)) h
  exact ⟨congrArg (fun u => u.regs.w) htick, .nil (congrArg State.history htick :), congrArg State.out htick⟩

/-- A poll moves the hidden countdown as R34 says, and the rest of its frame is every cycle's. -/
theorem lowPollCycle_frame (s : State) : CycleFrame s (lowPollCycle s) :=
  (lowPollCycle_law s).frame (cycle_wdtElapsed (act := lowPollAct) fun h => waitTick_wdtElapsed h)

/-- Settles O13: both polls are the cycle of WaitTick, whose two arms meet at the threshold. In the counted arm W does
not overflow, since the threshold is at most `2^CW - 2`. -/
theorem pollsOnlyCount : Obligations.PollsOnlyCount := by
  unfold Obligations.PollsOnlyCount
  intro s i hi hwf
  have hexec := exec_poll hi s
  refine ⟨fun _ hp hr he => ?low, fun _ hp hr he => ?high, lowPollCycle s, hexec, lowPollCycle_pc s, ?irq,
    lowPollCycle_pin s, ?sample, ?draws, lowPollCycle_regs s, lowPollCycle_over, fun h => ?under, lowPollCycle_frame s⟩
  case low => rw [hexec, step_lowPoll hp hr (decide_eq_false (BitVec.not_le.2 he))]
  case high => rw [hexec, step_highPoll hp hr (decide_eq_false (BitVec.not_le.2 he))]
  case irq => exact waitTick_irqDisable (cycleCount (beginCycle s))
  case sample => exact waitTick_sample (cycleCount (beginCycle s))
  case draws => exact waitTick_draws (cycleCount (beginCycle s))
  case under =>
    obtain ⟨hw, hevents⟩ := lowPollCycle_under h
    have hthresh := hwf.2
    exact ⟨by rw [hw]; bv_omega, hevents⟩

/-! ### RISE (R122) -/

/-- Pins that were driven have the level, and the others keep theirs (R143). -/
theorem PinsDriven.of_pin {s t : State} {mask : PinMask} {level : Bool} (h : t.pin = drivePins s.pin mask level) :
    PinsDriven s t mask level := fun p _ => by rw [h, drivePins_getLsbD]

/-- Settles O14: RISE overwrites START before anything reads it. -/
theorem riseDrivesHigh : Obligations.RiseDrivesHigh := by
  unfold Obligations.RiseDrivesHigh
  intro s
  exact ⟨fun hp hr he => step_rise hp hr (decide_eq_true he), riseCycle s, rfl, rfl, riseCycle_pc s, rfl, .of_pin rfl,
    rfl, rfl, rfl, rfl, (riseCycle_law s).frame rfl, fun _ => rfl⟩

/-! ### ADVANCE (R126) -/

/-- An action inside a step that asks the environment for no value has the frame of a primitive. -/
theorem ActFrame.primitiveFrame {s t : State} (h : ActFrame s t) (hdraws : t.draws = s.draws) : PrimitiveFrame s t :=
  ⟨h.inp, h.upcoming, h.ccount, h.stepNo, h.irqPending, fun a => by rw [h.mem], h.fb, h.ret, h.hostQueue, h.pinOutput,
    hdraws, h.params⟩

/-- What ADVANCE has no hand in beside the frame of every action: of the output ports it drives MEM_RD's alone. -/
structure AdvanceFrame (s t : State) : Prop where
  irqDisable : t.irqDisable = s.irqDisable
  sample : t.sample = s.sample
  draws : t.draws = s.draws
  out : t.out = { s.out with mem := t.out.mem }

theorem advance_advanceFrame (s : State) : AdvanceFrame s (advance s) := by
  rcases advance_cases s with ⟨-, h⟩ | ⟨-, -, h⟩ | ⟨-, -, h⟩ <;> rw [h] <;> exact ⟨rfl, rfl, rfl, rfl⟩

/-- Settles O16: each arm of the statement is the state that ADVANCE gives under the arm's condition. -/
theorem advanceArms : Obligations.AdvanceArms := by
  unfold Obligations.AdvanceArms
  intro s next
  have hframe := advance_advanceFrame s
  refine ⟨advance s, rfl, ?arms, hframe.irqDisable, advance_pin s, hframe.sample, advance_wdtElapsed s,
    (advance_frame s).primitiveFrame hframe.draws⟩
  rcases advance_cases s with ⟨hbit, h⟩ | ⟨hbit, hlast, h⟩ | ⟨hbit, hlast, h⟩
  · rw [if_pos hbit, h]
    exact ⟨rfl, rfl, .nil rfl, rfl⟩
  · rw [if_neg (not_not.2 hbit), if_pos (of_decide_eq_true hlast), h]
    exact ⟨rfl, rfl, .nil rfl, rfl⟩
  · rw [if_neg (not_not.2 hbit), if_neg (of_decide_eq_false hlast), h]
    exact ⟨rfl, rfl, rfl, rfl⟩

/-! ### FALL (R124) -/

/-- What FALL can do: the falling edge and one of the arms of ADVANCE, whose conditions the edge leaves as they are. -/
theorem fallCycle_cases (s : State) :
    (s.regs.bitMask >>> 1 ≠ 0 ∧ fallCycle s = cycle (fun u => advanceBit (fallEdge u)) s) ∨
    (s.regs.bitMask >>> 1 = 0 ∧ onLastByte s = true ∧ fallCycle s = cycle (fun u => advanceEnd (fallEdge u)) s) ∨
    (s.regs.bitMask >>> 1 = 0 ∧ onLastByte s = false ∧ fallCycle s = cycle (fun u => advanceByte (fallEdge u)) s) := by
  rcases advance_cases (fallEdge (beginCycle s)) with ⟨hbit, h⟩ | ⟨hbit, hlast, h⟩ | ⟨hbit, hlast, h⟩
  · exact .inl ⟨hbit, congrArg (endCycle s.irqDisable) h⟩
  · exact .inr (.inl ⟨hbit, hlast, congrArg (endCycle s.irqDisable) h⟩)
  · exact .inr (.inr ⟨hbit, hlast, congrArg (endCycle s.irqDisable) h⟩)

/-- FALL leaves the hidden countdown alone, and the rest of its frame is every cycle's. -/
theorem fallCycle_frame (s : State) : CycleFrame s (fallCycle s) :=
  (fallCycle_law s).frame (cycle_wdtElapsed (act := fallAct) fun _ => advance_wdtElapsed (fallEdge (beginCycle s)))

/-- Settles O15: FALL is the falling edge and then ADVANCE, whose arms do not look at what the edge changed. -/
theorem fallDrivesLowAndAdvances : Obligations.FallDrivesLowAndAdvances := by
  unfold Obligations.FallDrivesLowAndAdvances
  intro s next
  have hframe := advance_advanceFrame (fallEdge (beginCycle s))
  refine ⟨fun hp hr he => step_fall hp hr (decide_eq_true he), fallCycle s, rfl, .of_pin (fallCycle_pin s),
    hframe.irqDisable, hframe.sample, hframe.draws, congrArg Outputs.wdtReset hframe.out,
    congrArg Outputs.gpio hframe.out, ?arms, fallCycle_frame s⟩
  rcases fallCycle_cases s with ⟨hbit, h⟩ | ⟨hbit, hlast, h⟩ | ⟨hbit, hlast, h⟩
  · rw [if_pos hbit, h]
    exact ⟨rfl, rfl, rfl, rfl⟩
  · rw [if_neg (not_not.2 hbit), if_pos (of_decide_eq_true hlast), h]
    exact ⟨rfl, rfl, rfl, rfl⟩
  · rw [if_neg (not_not.2 hbit), if_neg (of_decide_eq_false hlast), h]
    have hedge : Appends s (fallEdge (beginCycle s)) [.pinWrite s.regs.pinMask false] := rfl
    have hfetch : Appends (fallEdge (beginCycle s)) (advanceByte (fallEdge (beginCycle s)))
      [.memRead next (s.mem.read next.toNat)] := rfl
    exact ⟨rfl, rfl, hedge.trans rfl hfetch, rfl⟩

end Sys2Proof.Machine
end

section
/-! The widths of a bit on the wire (R127, R128): the length of a low wait, of a pulse, and of the bit period. -/

namespace Sys2Proof.Machine

/-- Polls write no operand. -/
theorem Polled.operands {k : Nat} {s u : State} (h : Polled k s u) : u.regs.operands = s.regs.operands := by
  rw [h.regs]; rfl

theorem Regs.ttot_of_operands {r q : Regs} (h : r.operands = q.operands) : r.ttot = q.ttot :=
  (congrArg Regs.ttot h :)

theorem Regs.pinMask_of_operands {r q : Regs} (h : r.operands = q.operands) : r.pinMask = q.pinMask :=
  (congrArg Regs.pinMask h :)

/-- In the polls that a low wait has left, the elapsed count goes up with them: TTOT is below `2^CW`, so it does not
wrap (R127). -/
theorem low_run_counts {s : State} (hp : s.pc = .lowWait) (hn : NoReset s) {k : Nat}
    (hk : k ≤ s.regs.ttot.toNat - (elapsed s).toNat) :
    ∃ u, run k s = .next u ∧ u.pc = .lowWait ∧ u.pin = s.pin ∧ u.regs.ttot = s.regs.ttot ∧
      (elapsed u).toNat = (elapsed s).toNat + k := by
  have httot := s.regs.ttot.isLt
  have he := (elapsed s).isLt
  obtain ⟨u, hu, hpolled⟩ := low_run hp hn k (by omega)
  exact ⟨u, hu, hpolled.pc.trans hp, hpolled.pin, Regs.ttot_of_operands hpolled.operands,
    hpolled.elapsed_toNat (by omega)⟩

/-- Settles O48: the elapsed count goes up by one a poll, so it meets TTOT when the polls left are over. -/
theorem lowWaitLength : Obligations.LowWaitLength := by
  unfold Obligations.LowWaitLength
  intro s hp hn d
  refine ⟨fun k hk => ?poll, ?ended⟩
  case poll =>
    obtain ⟨u, hu, hpc, hpin, httot, he⟩ := low_run_counts hp hn (Nat.le_of_lt hk)
    exact ⟨u, hu, hpc, by rw [httot, BitVec.lt_def, he]; omega, hpin⟩
  case ended =>
    obtain ⟨v, hv, hpc, hpin, httot, he⟩ := low_run_counts hp hn (Nat.le_refl d)
    exact ⟨v, hv, hpc, by rw [httot, BitVec.le_def, he]; omega, hpin⟩

/-- A high wait runs the polls that its high time leaves, and then FALL (R123, R124). -/
theorem high_run_fall {s : State} (hp : s.pc = .highWait) (hn : NoReset s) :
    ∃ u, Polled ((highTime s).toNat - (elapsed s).toNat) s u ∧
      run ((highTime s).toNat - (elapsed s).toNat + 1) s = .next (fallCycle u) := by
  have ht := (highTime s).isLt
  have he := (elapsed s).isLt
  obtain ⟨u, hu, hpolled⟩ := high_run hp hn ((highTime s).toNat - (elapsed s).toNat) (by omega)
  have hover : highTime u ≤ elapsed u := by
    rw [hpolled.highTime, BitVec.le_def, hpolled.elapsed_toNat (by omega)]
    omega
  exact ⟨u, hpolled, (run_add _ 1 hu).trans
    (run_succ 0 (step_fall (hpolled.pc.trans hp) hpolled.noReset.1 (decide_eq_true hover)))⟩

theorem elapsed_riseCycle_toNat (s : State) : (elapsed (riseCycle s)).toNat = 1 := by
  rw [elapsed_riseCycle]; rfl

/-- From the rising step with high time `t` the pins of PINMASK are high in `max(t, 1)` states (R128). -/
theorem pulse_high {s : State} (hn : NoReset s) {k : Nat} (hk : k < max (highTime s).toNat 1) :
    ∃ u, run k (riseCycle s) = .next u ∧ u.pc = .highWait ∧ u.pin &&& s.regs.pinMask = s.regs.pinMask := by
  have hone := elapsed_riseCycle_toNat s
  have ht : highTime (riseCycle s) = highTime s := rfl
  obtain ⟨u, hu, hpolled⟩ :=
    high_run (riseCycle_pc s) (hn.next (riseCycle_law s)) k (by rw [hone, ht]; omega)
  exact ⟨u, hu, hpolled.pc, by rw [hpolled.pin]; exact drivePins_high _ _⟩

/-- After them FALL drives the pins low, one cycle later on the elapsed count. Where `t` is `2^CW - 1` the count wraps
there (log entry 19). -/
theorem pulse_fall {s : State} (hn : NoReset s) (ht : (highTime s).toNat < 2 ^ 32 - 1) :
    ∃ u, run (max (highTime s).toNat 1) (riseCycle s) = .next u ∧ NoReset u ∧ (u.pc = .lowWait ∨ u.pc = .post) ∧
      u.pin &&& s.regs.pinMask = 0 ∧ u.regs.ttot = s.regs.ttot ∧
      (elapsed u).toNat = max (highTime s).toNat 1 + 1 := by
  have hone := elapsed_riseCycle_toNat s
  obtain ⟨u, hpolled, hrun⟩ := high_run_fall (riseCycle_pc s) (hn.next (riseCycle_law s))
  rw [hone, show highTime (riseCycle s) = highTime s from rfl] at hpolled hrun
  have hwidth : (highTime s).toNat - 1 + 1 = max (highTime s).toNat 1 := by omega
  have hmask : u.regs.pinMask = s.regs.pinMask := Regs.pinMask_of_operands hpolled.operands
  refine ⟨fallCycle u, hwidth ▸ hrun, hpolled.noReset.next (fallCycle_law u), fallCycle_pc u, ?pin,
    Regs.ttot_of_operands ((fallCycle_operands u).trans hpolled.operands), ?elapsed⟩
  case pin => rw [fallCycle_pin, hmask]; exact drivePins_low _ _
  case elapsed =>
    have he := hpolled.elapsed_toNat (by omega)
    rw [elapsed_fallCycle]
    bv_omega

/-- Settles O47: RISE, the pulse, FALL, and then a low wait, whose length `lowWaitLength` gives. -/
theorem exactPulseWidths : Obligations.ExactPulseWidths := by
  unfold Obligations.ExactPulseWidths
  intro s hp hover hn t hi period ht
  have hrise := fun k => run_succ k (step_rise hp hn.1 (decide_eq_true hover))
  obtain ⟨u, hu, hnu, hpc, hpin, httot, (he : (elapsed u).toNat = hi + 1)⟩ := pulse_fall hn ht
  have hfall : run (hi + 1) s = .next u := (hrise hi).trans hu
  refine ⟨fun k hk1 hk => ?high, u, hfall, hpc, hpin, fun hlow => ?_⟩
  case high =>
    obtain ⟨j, rfl⟩ := Nat.exists_eq_add_of_le' hk1
    rw [hrise j]
    exact pulse_high hn hk
  obtain ⟨hpoll, v, hv, hvpc, hvover, hvpin⟩ := lowWaitLength u hlow hnu
  rw [httot, he] at hpoll hv
  refine ⟨fun k hk1 hk => ?low, v, ?period, hvpc, hvover, hvpin ▸ hpin⟩
  case low =>
    obtain ⟨j, rfl⟩ := Nat.exists_eq_add_of_le hk1
    obtain ⟨w, hw, hwpc, hwunder, hwpin⟩ := hpoll j (by omega)
    exact ⟨w, (run_add _ j hfall).trans hw, hwpc, hwunder, hwpin ▸ hpin⟩
  case period =>
    rw [show period = hi + 1 + (s.regs.ttot.toNat - (hi + 1)) by omega]
    exact (run_add _ _ hfall).trans hv

end Sys2Proof.Machine
end

section
/-! The primitives of an interrupt scope, of the pins, of the watchdog and of the clock (R140 to R149): each writes the
fields its rule names, and the rest is every primitive's frame. -/

namespace Sys2Proof.Machine

/-- Settles O22: each writes the flag and appends its own event. -/
theorem interruptScopePrimitives : Obligations.InterruptScopePrimitives := by
  unfold Obligations.InterruptScopePrimitives
  intro s
  have hlock : exec .irqLock s = .next (irqLock s) := rfl
  have hunlock : exec .irqUnlock s = .next (irqUnlock s) := rfl
  constructor
  · exact ⟨irqLock s, hlock, irqLock_irqDisable s, irqLock_history s, irqLock_regs s, irqLock_pc s, irqLock_out s,
      irqLock_pin s, irqLock_sample s, irqLock_wdtElapsed s, exec_primitive_primitiveFrame rfl hlock⟩
  · exact ⟨irqUnlock s, hunlock, irqUnlock_irqDisable s, irqUnlock_history s, irqUnlock_regs s, irqUnlock_pc s,
      irqUnlock_out s, irqUnlock_pin s, irqUnlock_sample s, irqUnlock_wdtElapsed s,
      exec_primitive_primitiveFrame rfl hunlock⟩

/-- Settles O23: the new levels are those of `drivePins`, pin by pin, and the example is one value of it. -/
theorem gpioWriteDrivesMask : Obligations.GpioWriteDrivesMask := by
  unfold Obligations.GpioWriteDrivesMask
  refine ⟨fun s mask level => ?general, fun s hpin => ?ruleExample⟩
  case general =>
    have hexec : exec (.gpioWrite mask level) s = .next (gpioWrite mask level s) := rfl
    exact ⟨gpioWrite mask level s, hexec, .of_pin (gpioWrite_pin mask level s), gpioWrite_history mask level s,
      gpioWrite_out mask level s, gpioWrite_regs mask level s, gpioWrite_pc mask level s,
      gpioWrite_irqDisable mask level s, gpioWrite_sample mask level s, gpioWrite_wdtElapsed mask level s,
      exec_primitive_primitiveFrame rfl hexec⟩
  case ruleExample =>
    refine ⟨gpioWrite 0x0010 true s, rfl, ?_⟩
    rw [gpioWrite_pin, hpin]
    decide

/-- Settles O24: the strobe, the event and the countdown are all that WdtReset writes. -/
theorem watchdogResetStrobes : Obligations.WatchdogResetStrobes := by
  unfold Obligations.WatchdogResetStrobes
  intro s
  have hexec : exec .wdtReset s = .next (wdtReset s) := rfl
  exact ⟨wdtReset s, hexec, wdtReset_out s, wdtReset_history s, wdtReset_wdtElapsed s, wdtReset_regs s,
    wdtReset_pc s, wdtReset_irqDisable s, wdtReset_pin s, wdtReset_sample s, exec_primitive_primitiveFrame rfl hexec⟩

/-- Settles O26: CycleCount writes the sample alone. -/
theorem cycleCountSamples : Obligations.CycleCountSamples := by
  unfold Obligations.CycleCountSamples
  intro s
  have hexec : exec .cycleCount s = .next (cycleCount s) := rfl
  exact ⟨cycleCount s, hexec, cycleCount_sample s, .nil (cycleCount_history s), cycleCount_regs s, cycleCount_pc s,
    cycleCount_irqDisable s, cycleCount_out s, cycleCount_pin s, cycleCount_wdtElapsed s,
    exec_primitive_primitiveFrame rfl hexec⟩

/-- Settles O25: the two arms meet at the threshold. In the counted arm W does not overflow, since the threshold is at
most `2^CW - 2` (R7). -/
theorem waitTickCountsPolls : Obligations.WaitTickCountsPolls := by
  unfold Obligations.WaitTickCountsPolls
  intro s hwf
  have hexec : exec .waitTick s = .next (waitTick s) := rfl
  refine ⟨waitTick s, hexec, ?arms, waitTick_w_le s, waitTick_pc s, waitTick_irqDisable s, waitTick_pin s,
    waitTick_sample s, exec_primitive_primitiveFrame rfl hexec⟩
  by_cases h : s.params.wdtThresh < s.regs.w.toNat + 1
  · rw [if_pos h, waitTick_over h]
    exact ⟨rfl, wdtReset_history s, wdtReset_out s, wdtReset_wdtElapsed s⟩
  · have hthresh := hwf.2
    have hcount : (s.regs.w + 1).toNat = s.regs.w.toNat + 1 := by bv_omega
    rw [if_neg h, waitTick_under (Nat.not_lt.1 h)]
    exact ⟨rfl, hcount, .nil rfl, rfl, rfl⟩

end Sys2Proof.Machine
end

section
/-! The watchdog in the waits (R148): no edge resets it, and with WDT_THRESH at least TTOT no poll does. -/

namespace Sys2Proof.Machine

/-- From `s` to `t` the watchdog is not reset: no strobe WDT_RESET, and no WdtReset among the events appended. -/
def WatchdogSilent (s t : State) : Prop :=
  t.out.wdtReset = false ∧ ∃ l : List EventKind, Appends s t l ∧ EventKind.wdtReset ∉ l

/-- The rising edge only writes the pins (R122). -/
theorem riseCycle_watchdogSilent (s : State) : WatchdogSilent s (riseCycle s) :=
  ⟨rfl, [.pinWrite s.regs.pinMask true], rfl, by simp⟩

/-- ADVANCE leaves the strobe alone, and has at most the event of the next fetch (R126). -/
theorem advance_watchdogSilent {s : State} (hquiet : s.out.wdtReset = false) : WatchdogSilent s (advance s) := by
  refine ⟨(congrArg Outputs.wdtReset (advance_advanceFrame s).out).trans hquiet, ?_⟩
  rcases advance_cases s with ⟨-, h⟩ | ⟨-, -, h⟩ | ⟨-, -, h⟩ <;> rw [h]
  · exact ⟨[], .nil rfl, by simp⟩
  · exact ⟨[], .nil rfl, by simp⟩
  · exact ⟨[.memRead (nextByteAddr s) (memValue (nextByteAddr s) s)], rfl, by simp⟩

/-- The falling edge writes the pins and advances (R124). -/
theorem fallCycle_watchdogSilent (s : State) : WatchdogSilent s (fallCycle s) := by
  have hedge : Appends s (fallEdge (beginCycle s)) [.pinWrite s.regs.pinMask false] := rfl
  obtain ⟨hout, l, hl, hnone⟩ := advance_watchdogSilent (s := fallEdge (beginCycle s)) rfl
  exact ⟨hout, _, hedge.trans rfl hl, by simpa using hnone⟩

/-- A poll of a wait that is not over counts fewer polls than the wait's limit, so below a threshold that is no less
the watchdog is left alone (R147, R148). -/
theorem lowPollCycle_watchdogSilent {s : State} {limit : CycleWord} (hover : ¬ limit ≤ elapsed s)
    (hw : s.regs.w ≤ elapsed s) (hlimit : limit.toNat ≤ s.params.wdtThresh) : WatchdogSilent s (lowPollCycle s) := by
  have hcount : s.regs.w.toNat + 1 ≤ s.params.wdtThresh := by bv_omega
  obtain ⟨-, hevents, hout⟩ := lowPollCycle_under hcount
  exact ⟨congrArg Outputs.wdtReset hout, [], hevents, by simp⟩

/-- Settles O60: a step of a wait is an edge, or a poll before TTOT or before the high time, which is less than TTOT. -/
theorem inWaitResetSilent : Obligations.InWaitResetSilent := by
  unfold Obligations.InWaitResetSilent
  intro s t hwait hpolls htiming hthresh hr h
  have hw : s.regs.w ≤ elapsed s := hpolls hwait
  have hhigh : (highTime s).toNat < s.regs.ttot.toNat := (highTime_bounds htiming).2
  show WatchdogSilent s t
  rcases hwait with hp | hp
  · rw [step_busy (by simp [hp]), engineStep_lowWait hr hp] at h
    cases h
    split
    · exact riseCycle_watchdogSilent s
    · next hover => exact lowPollCycle_watchdogSilent (mt decide_eq_true hover) hw hthresh
  · rw [step_busy (by simp [hp]), engineStep_highWait hr hp] at h
    cases h
    split
    · exact fallCycle_watchdogSilent s
    · next hover => exact lowPollCycle_watchdogSilent (mt decide_eq_true hover) hw (by omega)

end Sys2Proof.Machine
end

section
/-! Bytes of payload memory after a store: read back, written again, and compared address by address (R60). -/

namespace Sys2Proof.Machine

/-- Byte `j` of a store, from what the list holds there. -/
theorem Memory.read_writeBytes_at {bs : List Byte} {m : Memory} (a : Addr) (hm : m.wf = true)
    (hlen : bs.length ≤ 2 ^ 32) {j : Nat} {v : Byte} (h : bs[j]? = some v) :
    (m.writeBytes a bs).read (a + BitVec.ofNat 32 j).toNat = v := by
  obtain ⟨hj, rfl⟩ := List.getElem?_eq_some_iff.1 h
  exact Memory.read_writeBytes_inside bs m a j hm hlen hj

/-- Bytes stored are the bytes read back. -/
theorem Memory.readBytes_writeBytes {bs : List Byte} {m : Memory} (a : Addr) (hm : m.wf = true)
    (hlen : bs.length ≤ 2 ^ 32) : (m.writeBytes a bs).readBytes a bs.length = bs := by
  refine List.ext_getElem (Memory.length_readBytes _ _ _) fun j hj hbs => ?_
  rw [Memory.getElem_readBytes, Memory.read_writeBytes_inside bs m a j hm hlen hbs]

/-- Byte `j` of the bytes read from an address on. -/
theorem Memory.getElem?_readBytes (m : Memory) (a : Addr) {n j : Nat} (hj : j < n) :
    (m.readBytes a n)[j]? = some (m.read (a + BitVec.ofNat 32 j).toNat) := by
  rw [List.getElem?_eq_getElem (by simpa using hj), Memory.getElem_readBytes]

/-- Memories that agree on a region and outside it agree everywhere. -/
theorem Memory.read_congr_region {m m' : Memory} {a : Addr} {n : Nat}
    (hin : ∀ j, j < n → m.read (a + BitVec.ofNat 32 j).toNat = m'.read (a + BitVec.ofNat 32 j).toNat)
    (hout : ∀ x, OutsideRegion a n x → m.read x = m'.read x) (x : Nat) : m.read x = m'.read x := by
  by_cases hx : OutsideRegion a n x
  · exact hout x hx
  · unfold OutsideRegion at hx
    push Not at hx
    obtain ⟨j, hj, rfl⟩ := hx
    exact hin j hj

/-- A region overwritten and then given its old bytes again: memory is as it was. -/
theorem Memory.read_writeBytes_restore {bs : List Byte} {m : Memory} (a : Addr) (hm : m.wf = true)
    (hlen : bs.length ≤ 2 ^ 32) (x : Nat) :
    ((m.writeBytes a bs).writeBytes a (m.readBytes a bs.length)).read x = m.read x := by
  refine Memory.read_congr_region (a := a) (n := bs.length) (fun j hj => ?_) (fun x hx => ?_) x
  · exact Memory.read_writeBytes_at a (Memory.wf_writeBytes bs m a hm) (by simpa using hlen)
      (Memory.getElem?_readBytes m a hj)
  · rw [Memory.read_writeBytes_outside _ _ a x (by rwa [Memory.length_readBytes]),
      Memory.read_writeBytes_outside bs m a x hx]

end Sys2Proof.Machine
end

section
/-! A store into the framebuffer, and the calls on one LED (R161, R167, R169, R171). -/

namespace Sys2Proof.Machine

/-! ### A store into the framebuffer -/

/-- The framebuffer's bytes after a call that keeps its record are memory's at the old addresses. -/
theorem bufAt_eq_read {s t : State} (h : t.fb = s.fb) (j : Nat) : bufAt t j = t.mem.read (fbAddr j s).toNat := by
  unfold bufAt fbAddr
  rw [h]

/-- Byte `j` of a store into the framebuffer, from what the list holds there. -/
theorem bufAt_storeFb_of_getElem? {s : State} (off : Nat) {bs : List Byte} (hm : s.mem.wf = true)
    (hlen : bs.length ≤ 2 ^ 32) {j : Nat} {v : Byte} (h : bs[j]? = some v) :
    bufAt (storeFb off bs s) (off + j) = v := by
  obtain ⟨hj, rfl⟩ := List.getElem?_eq_some_iff.1 h
  exact bufAt_storeFb s off bs hm hlen j hj

theorem length_fbSlice (off n : Nat) (s : State) : (fbSlice off n s).length = n := Memory.length_readBytes _ _ _

/-- Byte `j` of a slice of the framebuffer (R161). -/
theorem getElem_fbSlice {off n : Nat} {s : State} {j : Nat} (hj : j < (fbSlice off n s).length) :
    (fbSlice off n s)[j] = bufAt s (off + j) := by
  rw [bufAt, fbAddr_add]
  exact Memory.getElem_readBytes s.mem n (fbAddr off s) j hj

/-! ### One LED (R167, R169, R171) -/

/-- Three bytes stored at an LED, and nothing out of range: what `overwriteLed` and `mergeLed` do with the bytes that
each forms. -/
def storeLed (index : Nat) (x y z : Byte) (s : State) : State :=
  giveBack .nothing (if ledInBounds index s then storeFb (index * 3) [x, y, z] s else s)

theorem overwriteLed_eq_storeLed (index : Nat) (r g b : Byte) (s : State) :
    overwriteLed index r g b s = storeLed index g r b s := rfl

/-- `mergeLed` stores each channel OR-ed with the byte that is there (R169). -/
theorem mergeLed_eq_storeLed (index : Nat) (r g b : Byte) (s : State) :
    mergeLed index r g b s = storeLed index (bufAt s (index * 3) ||| g) (bufAt s (index * 3 + 1) ||| r)
      (bufAt s (index * 3 + 2) ||| b) s := by
  have hslice : fbSlice (index * 3) 3 s = [bufAt s (index * 3), bufAt s (index * 3 + 1), bufAt s (index * 3 + 2)] :=
    List.ext_getElem (length_fbSlice _ _ _) fun j _ hj => by
      rw [getElem_fbSlice]
      match j, hj with
      | 0, _ | 1, _ | 2, _ => rfl
  unfold mergeLed storeLed
  rw [hslice]
  rfl

theorem storeLed_fb (index : Nat) (x y z : Byte) (s : State) : (storeLed index x y z s).fb = s.fb := by
  unfold storeLed
  split <;> rfl

theorem storeLed_draws (index : Nat) (x y z : Byte) (s : State) : (storeLed index x y z s).draws = s.draws := by
  unfold storeLed
  split <;> rfl

theorem storeLed_ret (index : Nat) (x y z : Byte) (s : State) : (storeLed index x y z s).ret = .nothing := rfl

theorem storeLed_inBounds {index : Nat} {s : State} (h : index * 3 + 3 ≤ s.fb.len) (x y z : Byte) :
    storeLed index x y z s = giveBack .nothing (storeFb (index * 3) [x, y, z] s) := by
  simp [storeLed, ledInBounds, h]

theorem storeLed_outOfBounds {index : Nat} {s : State} (h : index * 3 + 3 > s.fb.len) (x y z : Byte) :
    storeLed index x y z s = giveBack .nothing s := by
  simp [storeLed, ledInBounds, Nat.not_le.2 h]

/-- In range the LED holds the three bytes (R161). -/
theorem bufAt_storeLed {index : Nat} {s : State} (hm : s.mem.wf = true) (h : index * 3 + 3 ≤ s.fb.len)
    (x y z : Byte) :
    bufAt (storeLed index x y z s) (index * 3) = x ∧ bufAt (storeLed index x y z s) (index * 3 + 1) = y ∧
      bufAt (storeLed index x y z s) (index * 3 + 2) = z := by
  have hlen : [x, y, z].length ≤ 2 ^ 32 := by simp
  rw [storeLed_inBounds h]
  exact ⟨bufAt_storeFb_of_getElem? _ (j := 0) hm hlen rfl, bufAt_storeFb_of_getElem? _ (j := 1) hm hlen rfl,
    bufAt_storeFb_of_getElem? _ (j := 2) hm hlen rfl⟩

/-- In range no byte outside the LED changes. -/
theorem storeLed_outside {index : Nat} {s : State} (h : index * 3 + 3 ≤ s.fb.len) (x y z : Byte) {a : Nat}
    (ha : OutsideRegion (fbAddr (index * 3) s) 3 a) : (storeLed index x y z s).mem.read a = s.mem.read a := by
  rw [storeLed_inBounds h]
  exact storeFb_outside s (index * 3) [x, y, z] ha

/-- Out of range no byte changes, in range the LED's three alone. -/
theorem storeLed_effect {s : State} (hm : s.mem.wf = true) (index : Nat) (x y z : Byte) :
    if index * 3 + 3 > s.fb.len then ∀ a, (storeLed index x y z s).mem.read a = s.mem.read a
    else
      bufAt (storeLed index x y z s) (index * 3) = x ∧ bufAt (storeLed index x y z s) (index * 3 + 1) = y ∧
      bufAt (storeLed index x y z s) (index * 3 + 2) = z ∧
      ∀ a, OutsideRegion (fbAddr (index * 3) s) 3 a → (storeLed index x y z s).mem.read a = s.mem.read a := by
  split
  · next h => rw [storeLed_outOfBounds h]; exact fun _ => rfl
  · next h =>
    obtain ⟨hx, hy, hz⟩ := bufAt_storeLed hm (Nat.not_lt.1 h) x y z
    exact ⟨hx, hy, hz, fun _ ha => storeLed_outside (Nat.not_lt.1 h) x y z ha⟩

/-- The bytes an LED already holds, stored again, leave memory as it is. -/
theorem storeLed_self {s : State} (hm : s.mem.wf = true) (index : Nat) (a : Nat) :
    (storeLed index (bufAt s (index * 3)) (bufAt s (index * 3 + 1)) (bufAt s (index * 3 + 2)) s).mem.read a =
      s.mem.read a := by
  by_cases h : index * 3 + 3 > s.fb.len
  · rw [storeLed_outOfBounds h]; rfl
  · obtain ⟨h0, h1, h2⟩ := bufAt_storeLed hm (Nat.not_lt.1 h) (bufAt s (index * 3)) (bufAt s (index * 3 + 1))
      (bufAt s (index * 3 + 2))
    have hread := bufAt_eq_read (storeLed_fb index (bufAt s (index * 3)) (bufAt s (index * 3 + 1))
      (bufAt s (index * 3 + 2)) s)
    refine Memory.read_congr_region (a := fbAddr (index * 3) s) (n := 3) (fun j hj => ?_)
      (fun x hx => storeLed_outside (Nat.not_lt.1 h) _ _ _ hx) a
    rw [← fbAddr_add]
    match j, hj with
    | 0, _ => exact (hread _).symm.trans h0
    | 1, _ => exact (hread _).symm.trans h1
    | 2, _ => exact (hread _).symm.trans h2

/-- Settles O29: the three bytes in the stored order. -/
theorem overwriteLedStoresWireOrder : Obligations.OverwriteLedStoresWireOrder := by
  unfold Obligations.OverwriteLedStoresWireOrder
  rintro s index r g b ⟨hp, hd⟩ hm
  exact ⟨overwriteLed index r g b s, whenAlive_ready hp hd, overwriteLed_frame index r g b s,
    storeLed_fb index g r b s, storeLed_draws index g r b s, rfl, storeLed_effect hm index g r b⟩

/-- Settles O31: the three bytes are the old ones OR-ed with the channels. -/
theorem mergeLedOrsChannels : Obligations.MergeLedOrsChannels := by
  unfold Obligations.MergeLedOrsChannels
  rintro s index r g b ⟨hp, hd⟩ hm
  refine ⟨mergeLed index r g b s, whenAlive_ready hp hd, mergeLed_frame index r g b s, ?_⟩
  rw [mergeLed_eq_storeLed]
  exact ⟨storeLed_fb .., storeLed_draws .., storeLed_ret .., storeLed_effect hm index _ _ _⟩

/-- In range a merged LED has the channels' bits already: OR-ing them in again changes none of its bytes (R169). -/
theorem mergeLed_absorbs {s : State} (hm : s.mem.wf = true) {index : Nat} (h : index * 3 + 3 ≤ s.fb.len)
    (r g b : Byte) :
    let u := mergeLed index r g b s
    bufAt u (index * 3) ||| g = bufAt u (index * 3) ∧ bufAt u (index * 3 + 1) ||| r = bufAt u (index * 3 + 1) ∧
      bufAt u (index * 3 + 2) ||| b = bufAt u (index * 3 + 2) := by
  obtain ⟨hg, hr, hb⟩ := bufAt_storeLed hm h (bufAt s (index * 3) ||| g) (bufAt s (index * 3 + 1) ||| r)
    (bufAt s (index * 3 + 2) ||| b)
  rw [mergeLed_eq_storeLed]
  simp only [hg, hr, hb, BitVec.or_assoc, BitVec.or_self, and_self]

theorem mergeLed_wf (index : Nat) (r g b : Byte) {s : State} (h : s.mem.wf = true) :
    (mergeLed index r g b s).mem.wf = true := by
  unfold mergeLed
  split
  · exact storeBytes_wf _ _ h
  · exact h

theorem mergeLed_fb (index : Nat) (r g b : Byte) (s : State) : (mergeLed index r g b s).fb = s.fb := by
  rw [mergeLed_eq_storeLed, storeLed_fb]

/-- Settles O42: the second merge stores the bytes that are there, and out of range it stores none. -/
theorem mergeLedIdempotent : Obligations.MergeLedIdempotent := by
  unfold Obligations.MergeLedIdempotent
  rintro s i r g b ⟨hp, hd⟩ hm
  have hfb := mergeLed_fb i r g b s
  refine ⟨mergeLed i r g b s, mergeLed i r g b (mergeLed i r g b s), whenAlive_ready hp hd,
    whenAlive_ready ((mergeLed_frame i r g b s).hostPart.pc.trans hp) (by rw [hfb, hd]), fun x => ?_⟩
  rw [mergeLed_eq_storeLed (s := mergeLed i r g b s)]
  by_cases h : i * 3 + 3 > s.fb.len
  · rw [storeLed_outOfBounds (by rwa [hfb])]
    rfl
  · obtain ⟨hg, hr, hb⟩ := mergeLed_absorbs hm (Nat.not_lt.1 h) r g b
    rw [hg, hr, hb]
    exact storeLed_self (mergeLed_wf i r g b hm) i x

/-- The result of `readLed` by the bytes of the framebuffer (R161, R171). -/
theorem ledAt_eq (index : Nat) (s : State) :
    ledAt index s = if index * 3 + 3 > s.fb.len then .empty
      else .led (bufAt s (index * 3 + 1)) (bufAt s (index * 3)) (bufAt s (index * 3 + 2)) := by
  by_cases h : index * 3 + 3 ≤ s.fb.len
  · simp [ledAt, ledInBounds, h, bufAt]
  · simp [ledAt, ledInBounds, h, Nat.not_le.1 h]

/-- Settles O33: `readLed` hands back the LED and writes nothing. -/
theorem readLedReturnsTriple : Obligations.ReadLedReturnsTriple := by
  unfold Obligations.ReadLedReturnsTriple
  rintro s index ⟨hp, hd⟩
  exact ⟨readLed index s, whenAlive_ready hp hd, readLed_frame index s, rfl, rfl, fun _ => rfl, ledAt_eq index s⟩

/-- Settles O41: the store's order is the one that `readLed` undoes. -/
theorem readAfterOverwriteLed : Obligations.ReadAfterOverwriteLed := by
  unfold Obligations.ReadAfterOverwriteLed
  rintro s i r g b ⟨hp, hd⟩ hm h
  have hfb : (overwriteLed i r g b s).fb = s.fb := storeLed_fb i g r b s
  obtain ⟨hg, hr, hb⟩ := bufAt_storeLed hm h g r b
  refine ⟨overwriteLed i r g b s, readLed i (overwriteLed i r g b s), whenAlive_ready hp hd,
    whenAlive_ready ((overwriteLed_frame i r g b s).hostPart.pc.trans hp) (by rw [hfb, hd]), ?_⟩
  rw [← overwriteLed_eq_storeLed] at hg hr hb
  rw [readLed, giveBack_ret, ledAt_eq, hfb, if_neg (Nat.not_lt.2 h), hg, hr, hb]

end Sys2Proof.Machine
end

section
/-! The calls on a range of the framebuffer, on the whole of it, and its placement (R165, R166, R168, R170, R172 to
R174). -/

namespace Sys2Proof.Machine

/-- A call that stores `n` bytes from an offset on: byte `off + j` is the list's byte `j`, and no byte outside them
changes. -/
theorem storeFb_effect {s : State} (off : Nat) {n : Nat} {bs : List Byte} {f : Nat → Byte} (hm : s.mem.wf = true)
    (hn : bs.length = n) (hfits : n ≤ 2 ^ 32) (hf : ∀ j, j < n → bs[j]? = some (f j)) :
    (∀ j, j < n → bufAt (giveBack .nothing (storeFb off bs s)) (off + j) = f j) ∧
      ∀ x, OutsideRegion (fbAddr off s) n x → (giveBack .nothing (storeFb off bs s)).mem.read x = s.mem.read x := by
  subst hn
  exact ⟨fun j hj => bufAt_storeFb_of_getElem? off hm hfits (hf j hj), fun x hx => storeFb_outside s off bs hx⟩

/-! ### Ranges (R168, R170) -/

theorem getElem?_take_getD {bytes : List Byte} {n j : Nat} (hj : j < min bytes.length n) :
    (bytes.take n)[j]? = some (bytes.getD j 0) := by
  obtain ⟨hlen, hn⟩ := Nat.lt_min.1 hj
  rw [List.getElem?_take_of_lt hn, List.getD_eq_getElem _ _ hlen, List.getElem?_eq_getElem hlen]

theorem length_fittingPrefix (startIndex : Nat) (bytes : List Byte) (s : State) :
    (fittingPrefix startIndex bytes s).length = min bytes.length (s.fb.len - startIndex * 3) :=
  List.length_take.trans (min_comm _ _)

/-- The bytes that fit are no more than the framebuffer's, so they fit the address space. -/
theorem FramebufferInv.fitting_le {s : State} (h : FramebufferInv s) (m off : Nat) :
    min m (s.fb.len - off) ≤ 2 ^ 32 := by
  have := h.len_lt
  omega

/-- Settles O30: the stored list is the input's bytes that fit. -/
theorem overwriteRangeClips : Obligations.OverwriteRangeClips := by
  unfold Obligations.OverwriteRangeClips
  rintro s startIndex bytes ⟨hp, hd⟩ hm hfb
  exact ⟨overwriteRange startIndex bytes s, whenAlive_ready hp hd, overwriteRange_frame startIndex bytes s, rfl, rfl,
    rfl, storeFb_effect (startIndex * 3) hm (length_fittingPrefix startIndex bytes s) (hfb.fitting_le _ _)
      fun _ hj => getElem?_take_getD hj⟩

/-- The bytes that `mergeRange` stores: as many as the new ones. -/
theorem length_orBytes_fbSlice (off : Nat) (new : List Byte) (s : State) :
    (orBytes (fbSlice off new.length s) new).length = new.length := by
  simp [orBytes, length_fbSlice]

/-- Byte `j` of the bytes that `mergeRange` stores (R170). -/
theorem getElem?_orBytes_fbSlice (off : Nat) {new : List Byte} (s : State) {j : Nat} {v : Byte}
    (h : new[j]? = some v) :
    (orBytes (fbSlice off new.length s) new)[j]? = some (bufAt s (off + j) ||| v) := by
  obtain ⟨hj, rfl⟩ := List.getElem?_eq_some_iff.1 h
  have hslice : j < (fbSlice off new.length s).length := by rwa [length_fbSlice]
  rw [List.getElem?_eq_some_iff]
  refine ⟨by rwa [length_orBytes_fbSlice], ?_⟩
  simp [orBytes, getElem_fbSlice hslice]

/-- Settles O32: the stored list is the old bytes OR-ed with the input's bytes that fit. -/
theorem mergeRangeOrsPrefix : Obligations.MergeRangeOrsPrefix := by
  unfold Obligations.MergeRangeOrsPrefix
  rintro s startIndex bytes ⟨hp, hd⟩ hm hfb
  exact ⟨mergeRange startIndex bytes s, whenAlive_ready hp hd, mergeRange_frame startIndex bytes s, rfl, rfl, rfl,
    storeFb_effect (startIndex * 3) hm
      ((length_orBytes_fbSlice _ _ s).trans (length_fittingPrefix startIndex bytes s)) (hfb.fitting_le _ _)
      fun _ hj => getElem?_orBytes_fbSlice _ s (getElem?_take_getD hj)⟩

/-! ### Shifts (R172 to R174) -/

@[simp] theorem length_fbBytes (s : State) : (fbBytes s).length = s.fb.len := Memory.length_readBytes _ _ _

/-- Byte `j` of the buffer shifted right (R172). -/
theorem getElem?_shiftRightBytes (sh : Nat) (s : State) {j : Nat} (hj : j < s.fb.len) :
    (shiftRightBytes sh (fbBytes s))[j]? = some (if sh ≤ j then bufAt s (j - sh) else 0) := by
  rw [← getD_fbBytes s (j - sh) (by omega)]
  simp [shiftRightBytes, hj]

/-- Byte `j` of the buffer shifted left (R173). -/
theorem getElem?_shiftLeftBytes (sh : Nat) (s : State) {j : Nat} (hj : j < s.fb.len) :
    (shiftLeftBytes sh (fbBytes s))[j]? = some (if j + sh < s.fb.len then bufAt s (j + sh) else 0) := by
  by_cases h : j + sh < s.fb.len
  · rw [← getD_fbBytes s (j + sh) h]
    simp [shiftLeftBytes, hj]
  · simp [shiftLeftBytes, hj, h]

/-- What `shiftRight` does to the framebuffer and to the rest of memory (R172). -/
theorem shiftRight_effect {s : State} (h : MemoryForm s) (k : Nat) :
    (∀ j, j < s.fb.len → bufAt (shiftRight k s) j = if 3 * k ≤ j then bufAt s (j - 3 * k) else 0) ∧
      ∀ x, OutsideRegion (fbAddr 0 s) s.fb.len x → (shiftRight k s).mem.read x = s.mem.read x := by
  have heff := storeFb_effect 0 h.1 (bs := shiftRightBytes (3 * k) (fbBytes s)) (by simp [shiftRightBytes])
    h.2.len_lt.le fun _ hj => getElem?_shiftRightBytes (3 * k) s hj
  simp only [Nat.zero_add] at heff
  exact heff

/-- What `shiftLeft` does to the framebuffer and to the rest of memory (R173). -/
theorem shiftLeft_effect {s : State} (h : MemoryForm s) (k : Nat) :
    (∀ j, j < s.fb.len → bufAt (shiftLeft k s) j = if j + 3 * k < s.fb.len then bufAt s (j + 3 * k) else 0) ∧
      ∀ x, OutsideRegion (fbAddr 0 s) s.fb.len x → (shiftLeft k s).mem.read x = s.mem.read x := by
  have heff := storeFb_effect 0 h.1 (bs := shiftLeftBytes (3 * k) (fbBytes s)) (by simp [shiftLeftBytes])
    h.2.len_lt.le fun _ hj => getElem?_shiftLeftBytes (3 * k) s hj
  simp only [Nat.zero_add] at heff
  exact heff

/-- Settles O34: the stored list is the buffer shifted right. -/
theorem shiftRightMovesBytes : Obligations.ShiftRightMovesBytes := by
  unfold Obligations.ShiftRightMovesBytes
  rintro s k ⟨hp, hd⟩ hm hfb
  exact ⟨shiftRight k s, whenAlive_ready hp hd, shiftRight_frame k s, rfl, rfl, rfl, shiftRight_effect ⟨hm, hfb⟩ k⟩

/-- Settles O35: the stored list is the buffer shifted left. -/
theorem shiftLeftMovesBytes : Obligations.ShiftLeftMovesBytes := by
  unfold Obligations.ShiftLeftMovesBytes
  rintro s k ⟨hp, hd⟩ hm hfb
  exact ⟨shiftLeft k s, whenAlive_ready hp hd, shiftLeft_frame k s, rfl, rfl, rfl, shiftLeft_effect ⟨hm, hfb⟩ k⟩

/-- Right then left: what was shifted past the end is lost (R174). -/
theorem bufAt_shiftLeft_shiftRight {s : State} (h : MemoryForm s) (k : Nat) {j : Nat} (hj : j < s.fb.len) :
    bufAt (shiftLeft k (shiftRight k s)) j = if j + 3 * k < s.fb.len then bufAt s j else 0 := by
  have hu : MemoryForm (shiftRight k s) := storeBytes_memoryForm _ _ h
  have hleft : bufAt (shiftLeft k (shiftRight k s)) j =
      if j + 3 * k < s.fb.len then bufAt (shiftRight k s) (j + 3 * k) else 0 := (shiftLeft_effect hu k).1 j hj
  rw [hleft]
  split
  · next hk => rw [(shiftRight_effect h k).1 _ hk, if_pos (Nat.le_add_left _ _), Nat.add_sub_cancel]
  · rfl

/-- Left then right: what was shifted past the start is lost (R174). -/
theorem bufAt_shiftRight_shiftLeft {s : State} (h : MemoryForm s) (k : Nat) {j : Nat} (hj : j < s.fb.len) :
    bufAt (shiftRight k (shiftLeft k s)) j = if 3 * k ≤ j then bufAt s j else 0 := by
  have hu : MemoryForm (shiftLeft k s) := storeBytes_memoryForm _ _ h
  have hright : bufAt (shiftRight k (shiftLeft k s)) j =
      if 3 * k ≤ j then bufAt (shiftLeft k s) (j - 3 * k) else 0 := (shiftRight_effect hu k).1 j hj
  rw [hright]
  split
  · next hk => rw [(shiftLeft_effect h k).1 _ (by omega), Nat.sub_add_cancel hk, if_pos hj]
  · rfl

/-- Settles O43: the two compositions, with the bounds on bytes read as bounds on LEDs. -/
theorem shiftRoundTrip : Obligations.ShiftRoundTrip := by
  unfold Obligations.ShiftRoundTrip
  rintro s k ⟨hp, hd⟩ hm hfb
  have h3 : s.fb.len % 3 = 0 := hfb.1
  refine ⟨⟨shiftRight k s, shiftLeft k (shiftRight k s), whenAlive_ready hp hd,
    whenAlive_ready (s := shiftRight k s) hp hd, fun j hj => ?_⟩,
    ⟨shiftLeft k s, shiftRight k (shiftLeft k s), whenAlive_ready hp hd,
    whenAlive_ready (s := shiftLeft k s) hp hd, fun j hj => ?_⟩⟩
  · have hled : j + 3 * k < s.fb.len ↔ j / 3 < s.fb.len / 3 - min k (s.fb.len / 3) := by omega
    simp only [bufAt_shiftLeft_shiftRight ⟨hm, hfb⟩ k hj, hled]
  · have hled : 3 * k ≤ j ↔ min k (s.fb.len / 3) ≤ j / 3 := by omega
    simp only [bufAt_shiftRight_shiftLeft ⟨hm, hfb⟩ k hj, hled]

/-! ### Placement (R165, R166) -/

theorem fbInitialize_granted {bytes : List Byte} {s : State} {a : Addr}
    (h : allocDraw (initializedLen bytes) s = some a) :
    fbInitialize bytes s = giveBack .nothing (initializeAt a bytes (advanceAllocDraw s)) := by
  simp [fbInitialize, h]

theorem fbInitialize_refused {bytes : List Byte} {s : State} (h : allocDraw (initializedLen bytes) s = none) :
    fbInitialize bytes s = initializeFailed (advanceAllocDraw s) := by
  simp [fbInitialize, h]

/-- A placement draws from the allocator and not from START_INIT. -/
theorem fbInitialize_startInits (bytes : List Byte) (s : State) :
    (fbInitialize bytes s).draws.startInits = s.draws.startInits := by
  unfold fbInitialize
  split <;> rfl

theorem length_take_initializedLen (bytes : List Byte) :
    (bytes.take (initializedLen bytes)).length = initializedLen bytes :=
  List.length_take_of_le (Nat.mul_div_le _ 3)

/-- A placed framebuffer holds the input's first bytes (R165). -/
theorem bufAt_fbInitialize {bytes : List Byte} {s : State} {a : Addr}
    (h : allocDraw (initializedLen bytes) s = some a) (hm : s.mem.wf = true) {j : Nat}
    (hj : j < initializedLen bytes) :
    bufAt (fbInitialize bytes s) j = bytes.getD j 0 := by
  have hfits := allocDraw_fits h
  have hlen := length_take_initializedLen bytes
  have hmin : j < min bytes.length (initializedLen bytes) := by
    unfold initializedLen at *
    omega
  rw [fbInitialize_granted h]
  exact Memory.read_writeBytes_at a hm (by omega) (getElem?_take_getD hmin)

/-- Nothing outside the placed region changes (R165). -/
theorem fbInitialize_granted_outside {bytes : List Byte} {s : State} {a : Addr}
    (h : allocDraw (initializedLen bytes) s = some a) {x : Nat} (hx : OutsideRegion a (initializedLen bytes) x) :
    (fbInitialize bytes s).mem.read x = s.mem.read x := by
  rw [fbInitialize_granted h]
  exact Memory.read_writeBytes_outside _ s.mem a x (by rwa [length_take_initializedLen])

/-- Settles O28: the platform's answer selects the arm. -/
theorem initializeReplacesBuffer : Obligations.InitializeReplacesBuffer := by
  unfold Obligations.InitializeReplacesBuffer
  rintro s bytes ⟨hp, hd⟩
  refine ⟨fbInitialize bytes s, whenAlive_ready hp hd, fbInitialize_frame bytes s, fbInitialize_startInits bytes s,
    ?_⟩
  split
  · next a h =>
    have hplaced := fbInitialize_granted h
    exact ⟨congrArg State.fb hplaced, congrArg State.ret hplaced, fun hm j hj => bufAt_fbInitialize h hm hj,
      fun x hx => fbInitialize_granted_outside h hx⟩
  · next h =>
    rw [fbInitialize_refused h]
    exact ⟨rfl, rfl, fun x hx => loseBuffer_outside (advanceAllocDraw s) hx⟩

end Sys2Proof.Machine
end

section
/-! The adapter: the reorder of a caller's bytes, in place or not at all (R176, R177). -/

namespace Sys2Proof.Machine

/-- In each complete triple the first two bytes are swapped and the third stays (R176). -/
theorem getElem?_swapTriples_triple (l : List Byte) {q : Nat} (hq : q < l.length / 3) :
    (swapTriples l)[3 * q]? = l[3 * q + 1]? ∧ (swapTriples l)[3 * q + 1]? = l[3 * q]? ∧
      (swapTriples l)[3 * q + 2]? = l[3 * q + 2]? := by
  fun_induction swapTriples l generalizing q with
  | case1 a b c rest ih =>
    cases q with
    | zero => exact ⟨rfl, rfl, rfl⟩
    | succ q => exact ih (by simp only [List.length_cons] at hq; omega)
  | case2 | case3 | case4 => simp at hq

/-- A trailing incomplete triple stays (R176). -/
theorem getElem?_swapTriples_tail (l : List Byte) {j : Nat} (hj : 3 * (l.length / 3) ≤ j) :
    (swapTriples l)[j]? = l[j]? := by
  fun_induction swapTriples l generalizing j with
  | case1 a b c rest ih =>
    simp only [List.length_cons] at hj
    obtain ⟨i, rfl⟩ : ∃ i, j = i + 3 := ⟨j - 3, by omega⟩
    exact ih (by omega)
  | case2 | case3 | case4 => rfl

theorem swapTriples_swapTriples (l : List Byte) : swapTriples (swapTriples l) = l := by
  fun_induction swapTriples l with
  | case1 a b c rest ih => rw [swapTriples, ih]
  | case2 | case3 | case4 => rfl

theorem byteSeq_len_le {b : ByteSeq} (h : b.wf = true) : b.len ≤ 2 ^ 32 := by
  have : b.addr.toNat + b.len ≤ 2 ^ 32 := of_decide_eq_true h
  omega

/-- A caller's byte sequence as a list. -/
theorem getElem?_readBytes_seq (s : State) (b : ByteSeq) {j : Nat} (hj : j < b.len) :
    (s.mem.readBytes b.addr b.len)[j]? = some (seqAt s b j) := Memory.getElem?_readBytes s.mem b.addr hj

/-- A byte of the reordered sequence is the old byte that the reorder of the list puts there. -/
theorem seqAt_toWireOrderInPlace {s : State} {b : ByteSeq} (hm : s.mem.wf = true) (hb : b.wf = true) {j k : Nat}
    (hk : k < b.len)
    (h : (swapTriples (s.mem.readBytes b.addr b.len))[j]? = (s.mem.readBytes b.addr b.len)[k]?) :
    seqAt (toWireOrderInPlace b s) b j = seqAt s b k :=
  Memory.read_writeBytes_at b.addr hm (by simpa using byteSeq_len_le hb) (h.trans (getElem?_readBytes_seq s b hk))

theorem toWireOrderInPlace_outside (s : State) (b : ByteSeq) {x : Nat} (hx : OutsideRegion b.addr b.len x) :
    (toWireOrderInPlace b s).mem.read x = s.mem.read x :=
  Memory.read_writeBytes_outside _ s.mem b.addr x (by rwa [length_swapTriples, Memory.length_readBytes])

/-- Settles O36: the reorder of the list, byte by byte. -/
theorem wireOrderSwapsTriples : Obligations.WireOrderSwapsTriples := by
  unfold Obligations.WireOrderSwapsTriples
  intro s b hp hm hb
  refine ⟨toWireOrderInPlace b s, whenIdle_act hp, toWireOrderInPlace_frame b s, rfl, rfl, rfl, fun q hq => ?_,
    fun j hj hlt => ?_, fun x hx => toWireOrderInPlace_outside s b hx⟩
  · obtain ⟨h0, h1, h2⟩ := getElem?_swapTriples_triple (s.mem.readBytes b.addr b.len) (q := q) (by simpa using hq)
    exact ⟨seqAt_toWireOrderInPlace hm hb (by omega) h0, seqAt_toWireOrderInPlace hm hb (by omega) h1,
      seqAt_toWireOrderInPlace hm hb (by omega) h2⟩
  · exact seqAt_toWireOrderInPlace hm hb hlt (getElem?_swapTriples_tail _ (by simpa using hj))

/-- The second reorder stores the bytes that the first has read. -/
theorem toWireOrderInPlace_twice_mem {s : State} {b : ByteSeq} (hm : s.mem.wf = true) (hb : b.wf = true) :
    (toWireOrderInPlace b (toWireOrderInPlace b s)).mem =
      (toWireOrderInPlace b s).mem.writeBytes b.addr (s.mem.readBytes b.addr b.len) := by
  have hlen : (swapTriples (s.mem.readBytes b.addr b.len)).length = b.len := by simp
  have hread : (toWireOrderInPlace b s).mem.readBytes b.addr b.len = swapTriples (s.mem.readBytes b.addr b.len) := by
    have h := Memory.readBytes_writeBytes b.addr hm (hlen.trans_le (byteSeq_len_le hb))
    rwa [hlen] at h
  show (toWireOrderInPlace b s).mem.writeBytes b.addr
    (swapTriples ((toWireOrderInPlace b s).mem.readBytes b.addr b.len)) = _
  rw [hread, swapTriples_swapTriples]

/-- Settles O44: the reorder of a list is its own inverse. -/
theorem wireOrderTwiceRestores : Obligations.WireOrderTwiceRestores := by
  unfold Obligations.WireOrderTwiceRestores
  intro s b hp hm hb
  have hlen : (swapTriples (s.mem.readBytes b.addr b.len)).length = b.len := by simp
  refine ⟨toWireOrderInPlace b s, toWireOrderInPlace b (toWireOrderInPlace b s), whenIdle_act hp,
    whenIdle_act (s := toWireOrderInPlace b s) hp, fun x => ?_⟩
  have hrestore := Memory.read_writeBytes_restore b.addr hm (hlen.trans_le (byteSeq_len_le hb)) x
  rw [hlen] at hrestore
  rw [toWireOrderInPlace_twice_mem hm hb]
  exact hrestore

/-- Settles O37: the call hands back nothing and is done. -/
theorem asWireOrderTouchesNothing : Obligations.AsWireOrderTouchesNothing := by
  unfold Obligations.AsWireOrderTouchesNothing
  intro s b hp
  exact ⟨asWireOrder b s, whenIdle_act hp, asWireOrder_frame b s, rfl, rfl, rfl, fun _ => rfl⟩

end Sys2Proof.Machine
end

section
/-! RST before everything else (R194): the host may not move and the engine does not look at its phase. -/

namespace Sys2Proof.Machine

/-- With RST = 1 a step is RESET, whatever the phase, the command ports and the host's queue hold (R194). -/
theorem step_rst {s : State} (hr : s.inp.rst = true) : step s = .next (resetCycle s) := by
  have hhost : hostMayMove s = false := (hostMayMove_eq_false_iff s).2 (.inr (.inl hr))
  rw [step_engine (.inr hhost), engineStep_rst hr]

/-- A lost command moves no pin and keeps the frame of a cycle. -/
theorem transmitWord_lost_frame {s : State} (hr : s.inp.rst = true) (pm : PinMask) (b : Addr) (l : Len) :
    (transmitWord pm b l s).pin = s.pin ∧ CycleFrame (driveCommand true pm b l s) (transmitWord pm b l s) := by
  rw [transmitWord_rst hr]
  exact ⟨rfl, (resetCycle_law _).frame rfl⟩

/-- Settles O19: the step is RESET, and a command is lost in the cycle of its own RESET. -/
theorem resetHasPriority : Obligations.ResetHasPriority := by
  unfold Obligations.ResetHasPriority
  intro s hr
  refine ⟨(step_rst hr).trans (exec_reset_rows (.inl rfl) s).symm, fun pm b l => ?_⟩
  obtain ⟨hpc, hirq, hev⟩ := transmitWord_lost hr pm b l
  obtain ⟨hpin, hframe⟩ := transmitWord_lost_frame hr pm b l
  exact ⟨transmitWord pm b l s, rfl, hpc, hirq, hev, hpin, hframe⟩

end Sys2Proof.Machine
end
